-- ==== Sys2Proof/Word.lean ====
section
/-! DEFINITION. The word types: 32-bit words and 8-bit bytes, both unsigned (R12, R13). -/

namespace Sys2Proof

/-- A word: an unsigned 32-bit value, bits 31 (most significant) down to 0 (R12). -/
abbrev Word := BitVec 32

/-- A byte: an unsigned 8-bit value (R13). -/
abbrev Byte := BitVec 8

end Sys2Proof
end

