-- ==== Sys2Proof/Syntax.lean ====
section
/-! DEFINITION. The command set: one constructor per row of `spec/opcode_table.json` (R89). -/

namespace Sys2Proof

/-- The commands (R81, R82, R89). `dp` and `sp` say whether the destination and the source buffer are present (R84);
`c` is the context slot number, 0 to 255 (R83; the bound is checked in `WellFormed`). -/
inductive Instr where
  /-- `KEYEXP` (R134). -/
  | keyexp (sp : Bool) (c : Nat)
  /-- `ENC1.REF` (R152). -/
  | enc1Ref (dp sp : Bool) (c : Nat)
  /-- `ENC1.TAB` (R152). -/
  | enc1Tab (dp sp : Bool) (c : Nat)
  /-- `ENC1.BAT` (R152). -/
  | enc1Bat (dp sp : Bool) (c : Nat)
  /-- `DEC1.REF` (R153). -/
  | dec1Ref (dp sp : Bool) (c : Nat)
  /-- `DEC1.TAB` (R153). -/
  | dec1Tab (dp sp : Bool) (c : Nat)
  /-- `DEC1.BAT` (R153). -/
  | dec1Bat (dp sp : Bool) (c : Nat)
  /-- `ENCN.REF` (R192). -/
  | encnRef (dp sp : Bool) (c : Nat)
  /-- `ENCN.TAB` (R192). -/
  | encnTab (dp sp : Bool) (c : Nat)
  /-- `ENCN.BAT` (R192). -/
  | encnBat (dp sp : Bool) (c : Nat)
  /-- `DECN.REF` (R193). -/
  | decnRef (dp sp : Bool) (c : Nat)
  /-- `DECN.TAB` (R193). -/
  | decnTab (dp sp : Bool) (c : Nat)
  /-- `DECN.BAT` (R193). -/
  | decnBat (dp sp : Bool) (c : Nat)
  deriving DecidableEq, Repr

end Sys2Proof
end

