-- ==== Sys2Proof/WellFormed.lean ====
section
/-! DEFINITION. The one check on a command as a term: its slot number fits the 8-bit field `CTX` (R80, R83). -/

namespace Sys2Proof

/-- The slot number of a command: the field `CTX` (R83). -/
def Instr.slot : Instr → Nat
  | .keyexp _ c => c
  | .enc1Ref _ _ c => c
  | .enc1Tab _ _ c => c
  | .enc1Bat _ _ c => c
  | .dec1Ref _ _ c => c
  | .dec1Tab _ _ c => c
  | .dec1Bat _ _ c => c
  | .encnRef _ _ c => c
  | .encnTab _ _ c => c
  | .encnBat _ _ c => c
  | .decnRef _ _ c => c
  | .decnTab _ _ c => c
  | .decnBat _ _ c => c

/-- "Any value 0 to 255 is a legal encoding" (R83), and no other can be encoded. -/
abbrev Instr.WellFormed (i : Instr) : Prop := i.slot ≤ 255

end Sys2Proof
end

