-- ==== Sys2Proof/Decode.lean ====
section
/-! DEFINITION. The decoder (R87), total on every word and rejecting by name, the encoder (R80) after it, and the opcode
table of R89 as rows of match and mask. -/

namespace Sys2Proof

/-! ## The fields of a command word (R80) -/

namespace Cmd

/-- `RSV1`, bits 31:18, reserved, must be 0. -/
def rsv1 (w : Word) : BitVec 14 := w.extractLsb' 18 14
/-- `DP`, bit 17: destination buffer present. -/
def dp (w : Word) : Bool := w.getLsbD 17
/-- `SP`, bit 16: source buffer present. -/
def sp (w : Word) : Bool := w.getLsbD 16
/-- `CTX`, bits 15:8: the slot number. -/
def ctx (w : Word) : BitVec 8 := w.extractLsb' 8 8
/-- `RSV0`, bits 7:6, reserved, must be 0. -/
def rsv0 (w : Word) : BitVec 2 := w.extractLsb' 6 2
/-- `ENG`, bits 5:4: engine select (R82). -/
def eng (w : Word) : BitVec 2 := w.extractLsb' 4 2
/-- `OP`, bits 3:0: operation (R81). -/
def op (w : Word) : BitVec 4 := w.extractLsb' 0 4

end Cmd

/-- Why a word is `Illegal` (R87, R208). The reason is not observable: every one is executed as `raise IllegalCommand`
(log 18, DESIGN CHOICE, safe). -/
inductive Illegal where
  /-- `w[31:18] != 0`. -/
  | rsv1NotZero
  /-- `w[7:6] != 0`. -/
  | rsv0NotZero
  /-- `OP` is 0 or 6 to 15. -/
  | reservedOp
  /-- `ENG = 3` in a crypt command. -/
  | reservedEngine
  /-- `KEYEXP` with `ENG != 0`. -/
  | keyexpEngine
  /-- `KEYEXP` with `DP = 1`. -/
  | keyexpDestination
  deriving DecidableEq, Repr

/-- The commands of an `OP` 2 to 5 by the engine field: 0 `REF`, 1 `TAB`, 2 `BAT`, 3 reserved (R82, R87). -/
def decodeEngine (ref tab bat : Bool → Bool → Nat → Instr) (w : Word) : Except Illegal Instr :=
  match (Cmd.eng w).toNat with
  | 0 => .ok (ref (Cmd.dp w) (Cmd.sp w) (Cmd.ctx w).toNat)
  | 1 => .ok (tab (Cmd.dp w) (Cmd.sp w) (Cmd.ctx w).toNat)
  | 2 => .ok (bat (Cmd.dp w) (Cmd.sp w) (Cmd.ctx w).toNat)
  | _ => .error .reservedEngine

/-- `KEYEXP` requires `ENG = 0` and `DP = 0` (R82, R84, R87). -/
def decodeKeyexp (w : Word) : Except Illegal Instr :=
  if Cmd.eng w ≠ 0 then .error .keyexpEngine
  else if Cmd.dp w then .error .keyexpDestination
  else .ok (.keyexp (Cmd.sp w) (Cmd.ctx w).toNat)

/-- `Decode(w)` (R87). -/
def decode (w : Word) : Except Illegal Instr :=
  if Cmd.rsv1 w ≠ 0 then .error .rsv1NotZero
  else if Cmd.rsv0 w ≠ 0 then .error .rsv0NotZero
  else
    match (Cmd.op w).toNat with
    | 1 => decodeKeyexp w
    | 2 => decodeEngine .enc1Ref .enc1Tab .enc1Bat w
    | 3 => decodeEngine .dec1Ref .dec1Tab .dec1Bat w
    | 4 => decodeEngine .encnRef .encnTab .encnBat w
    | 5 => decodeEngine .decnRef .decnTab .decnBat w
    | _ => .error .reservedOp

/-! ## The encoder (R80, R89) -/

/-- The word with the fields of R80, reserved fields 0. -/
def packCommand (dp sp : Bool) (c : Nat) (eng : BitVec 2) (op : BitVec 4) : Word :=
  0#14 ++ BitVec.ofBool dp ++ BitVec.ofBool sp ++ BitVec.ofNat 8 c ++ 0#2 ++ eng ++ op

/-- The command word of a well-formed instruction. -/
def encode : Instr → Word
  | .keyexp sp c => packCommand false sp c 0 1
  | .enc1Ref dp sp c => packCommand dp sp c 0 2
  | .enc1Tab dp sp c => packCommand dp sp c 1 2
  | .enc1Bat dp sp c => packCommand dp sp c 2 2
  | .dec1Ref dp sp c => packCommand dp sp c 0 3
  | .dec1Tab dp sp c => packCommand dp sp c 1 3
  | .dec1Bat dp sp c => packCommand dp sp c 2 3
  | .encnRef dp sp c => packCommand dp sp c 0 4
  | .encnTab dp sp c => packCommand dp sp c 1 4
  | .encnBat dp sp c => packCommand dp sp c 2 4
  | .decnRef dp sp c => packCommand dp sp c 0 5
  | .decnTab dp sp c => packCommand dp sp c 1 5
  | .decnBat dp sp c => packCommand dp sp c 2 5

/-! ## The opcode table (R89) -/

/-- The mnemonic of a command, as `spec/opcode_table.json` spells it. -/
def Instr.mnemonic : Instr → String
  | .keyexp _ _ => "KEYEXP"
  | .enc1Ref _ _ _ => "ENC1.REF"
  | .enc1Tab _ _ _ => "ENC1.TAB"
  | .enc1Bat _ _ _ => "ENC1.BAT"
  | .dec1Ref _ _ _ => "DEC1.REF"
  | .dec1Tab _ _ _ => "DEC1.TAB"
  | .dec1Bat _ _ _ => "DEC1.BAT"
  | .encnRef _ _ _ => "ENCN.REF"
  | .encnTab _ _ _ => "ENCN.TAB"
  | .encnBat _ _ _ => "ENCN.BAT"
  | .decnRef _ _ _ => "DECN.REF"
  | .decnTab _ _ _ => "DECN.TAB"
  | .decnBat _ _ _ => "DECN.BAT"

/-- One row of R89. -/
structure OpcodeRow where
  mnemonic : String
  pattern : Word
  mask : Word
  deriving DecidableEq, Repr

/-- "A word `w` is the command of a row exactly when `w & mask = match`" (R89). -/
abbrev OpcodeRow.matchesWord (r : OpcodeRow) (w : Word) : Prop := w &&& r.mask = r.pattern

/-- The thirteen rows of R89, in its order. -/
def opcodeRows : List OpcodeRow :=
  [⟨"KEYEXP", 0x00000001, 0xFFFE00FF⟩,
   ⟨"ENC1.REF", 0x00000002, 0xFFFC00FF⟩, ⟨"ENC1.TAB", 0x00000012, 0xFFFC00FF⟩, ⟨"ENC1.BAT", 0x00000022, 0xFFFC00FF⟩,
   ⟨"DEC1.REF", 0x00000003, 0xFFFC00FF⟩, ⟨"DEC1.TAB", 0x00000013, 0xFFFC00FF⟩, ⟨"DEC1.BAT", 0x00000023, 0xFFFC00FF⟩,
   ⟨"ENCN.REF", 0x00000004, 0xFFFC00FF⟩, ⟨"ENCN.TAB", 0x00000014, 0xFFFC00FF⟩, ⟨"ENCN.BAT", 0x00000024, 0xFFFC00FF⟩,
   ⟨"DECN.REF", 0x00000005, 0xFFFC00FF⟩, ⟨"DECN.TAB", 0x00000015, 0xFFFC00FF⟩, ⟨"DECN.BAT", 0x00000025, 0xFFFC00FF⟩]

/-! ## The host's view of the decoder -/

/-- The instruction the decoder reads from a word of the opcode table. A command is one 32-bit word (R88), so a wider
bit string is none; a command word is written whole and has no byte order (R57; log 19). -/
def decodeTableWord (nbits w : Nat) : Option Instr :=
  if nbits ≤ 32 then (decode (BitVec.ofNat 32 (w % 2 ^ nbits))).toOption else none

end Sys2Proof
end

