-- ==== Sys2Proof/Config.lean ====
section
/-! DEFINITION. The open parameters the model takes as arguments (R9) and the one free value of the model (R40, U5). -/

namespace Sys2Proof

/-- The four open parameters of R9. The spec gives ranges and no values, so a `Config` is an argument of the
model: State carries one and no step changes it (log 1, DESIGN CHOICE, safe). -/
structure Config where
  /-- `LANES`: state-register copies in the batch datapath. -/
  lanes : Nat
  /-- `NCTX`: cipher-context slots. -/
  nctx : Nat
  /-- `NPORTS`: host command ports. -/
  nports : Nat
  /-- `BUF_BYTES`: bytes of the operand buffer memory. -/
  bufBytes : Nat
  deriving DecidableEq, Repr

/-- The ranges of R9; the model says nothing of a configuration outside them (log 20). -/
abbrev Config.wf (k : Config) : Prop :=
  (1 ≤ k.lanes ∧ k.lanes ≤ 255) ∧ (1 ≤ k.nctx ∧ k.nctx ≤ 32) ∧ (1 ≤ k.nports ∧ k.nports ≤ 255) ∧
    16 ≤ k.bufBytes ∧ k.bufBytes ≤ 2 ^ 31

/-- The values R9 suggests: the configuration of `State.reset` (log 1, DESIGN CHOICE: R9 suggests them, nothing fixes them;
unsafe for a claim that rests on them). -/
def Config.suggested : Config := { lanes := 4, nctx := 1, nports := 1, bufBytes := 65536 }

/-- A FREE VALUE (log 5, DESIGN CHOICE, safe): the byte that address `a` of `BUF` holds after the `epoch`-th reset, until it
is first written. R40: "unspecified: any byte value, and not necessarily what it held before the reset". It has no
body: nothing can be proved of it. -/
opaque Config.freeByte (epoch a : Nat) : Byte

end Sys2Proof
end

