-- ==== Sys2Proof/Machine/State.lean ====
section
/-! DEFINITION. The state of the core as plain data (R20), the reasons a step can stop, and the state after reset (R40). -/

namespace Sys2Proof.Machine

/-! ## The registers of a port -/

/-- The result codes of R205. -/
inductive ResultCode where
  /-- 0: the command completed. -/
  | ok
  /-- 1 (R206). -/
  | invalidKeyLength
  /-- 2 (R207). -/
  | invalidArgument
  /-- 3 (R208). -/
  | illegalCommand
  deriving DecidableEq, Repr

/-- The errors a command can raise: the three non-zero codes of R205. -/
inductive CommandError where
  /-- `InvalidKeyLength` (R206). -/
  | invalidKeyLength
  /-- `InvalidArgument` (R207). -/
  | invalidArgument
  /-- `IllegalCommand` (R208). -/
  | illegalCommand
  deriving DecidableEq, Repr

/-- The registers that are a port's own (R217): `CMD`, the four operand registers (R23, R24) and `STATUS`, of which the
three implemented bits are stored: `done` is bit 31 and `err` is bits 1:0 (R25; log 8, DEDUCED, safe). -/
structure PortRegs where
  cmd : Word
  src : Word
  slen : Word
  dst : Word
  dlen : Word
  done : Bool
  err : ResultCode
  deriving DecidableEq, Repr

/-- Every per-port register is 0 after reset (R40). -/
def PortRegs.zero : PortRegs :=
  { cmd := 0, src := 0, slen := 0, dst := 0, dlen := 0, done := false, err := .ok }

/-! ## Round keys, tables, buffer memory -/

/-- A round-key file `RK[c][0..31]` (R31). -/
abbrev RoundKeys := Vector Word 32

/-- The merged-table quad `T[0..3][0..255]` (R34). -/
abbrev Tables := Vector (Vector Word 256) 4

/-- `BUF` (R38): the bytes written since reset, by address. An address not listed has not been written since reset and
reads as no value of this list: commands and the host then read the free byte of `Config.freeByte` (R40; log 5). -/
abbrev Memory := List Host.Cell

/-- The canonical form: addresses strictly rising. (No listed byte can equal what an unlisted address holds in the list,
which is no value.) -/
abbrev Memory.wf (m : Memory) : Prop := List.Pairwise (fun x y => x.1 < y.1) m

/-! ## The hosts' side: actions and replies -/

/-- The host actions (R10). A register number is 0 to 255; a port or a `BUF` address that does not exist can be written down
and is refused (R53, U7; log 7). -/
inductive HostAction where
  /-- `RegWrite(p, n, v)`. -/
  | regWrite (p : Nat) (n : Fin 256) (v : Word)
  /-- `RegRead(p, n)`. -/
  | regRead (p : Nat) (n : Fin 256)
  /-- `BufWrite(a, b)`. -/
  | bufWrite (a : Nat) (b : Byte)
  /-- `BufRead(a)`. -/
  | bufRead (a : Nat)
  /-- `Reset` (R235). -/
  | reset
  deriving DecidableEq, Repr

/-- What a read returned to its host (log 3, DESIGN CHOICE, safe). -/
inductive Reply where
  /-- The value of `RegRead(p, n)`. -/
  | reg (p : Nat) (n : Fin 256) (v : Word)
  /-- The value of `BufRead(a)`. -/
  | buf (a : Nat) (b : Byte)
  deriving DecidableEq, Repr

/-! ## The state -/

/-- The state (R20). Items 1 (constant ROM) and 10 (transient state, which "holds no value between commands") are no
fields; item 5 and 6 are `slots`, 7 and 8 are `tables`: the valid bit is `isSome`, so that words that hold no value cannot
be read (R31, R34, U3, U4; log 9, log 11). -/
structure State where
  /-- The open parameters (R9); no step changes them (log 1). -/
  cfg : Config
  /-- Items 2 to 4: the registers of each port, `NPORTS` entries. -/
  ports : List PortRegs
  /-- Items 5 and 6: for each slot `CTXV[c]` and `RK[c]`, `NCTX` entries. -/
  slots : List (Option RoundKeys)
  /-- Items 7 and 8: `TRDY` and `T`. -/
  tables : Option Tables
  /-- The ghost counter `TBUILDS` (R41; log 13). -/
  tbuilds : Nat
  /-- Item 9: `BUF`. -/
  buf : Memory
  /-- The model's own: the number of `Reset` actions so far, argument of the free value (log 5). -/
  epoch : Nat
  /-- The model's own: the port whose `CMD` write is, or was last, executed (log 4). -/
  issuer : Nat
  /-- The model's own: the pending host actions, in their total order (R65, R66; log 2). -/
  script : List HostAction
  /-- The model's own: what reads have returned, oldest first (log 3). -/
  replies : List Reply
  deriving DecidableEq, Repr

/-- Why the machine stops. The spec's machine never does: an error "leaves the core fully operational" (R212). -/
inductive Fault where
  /-- Raised by a meaning in a state whose `issuer` is none of its ports; no run reaches one, since `Machine.regWrite` sets
  `issuer` to a port it has found (log 14). Safe. -/
  | noIssuingPort (p : Nat)
  deriving DecidableEq, Repr

/-- Why an action has no meaning. -/
inductive Refusal where
  /-- Raised by an arm of `exec` whose instruction has no meaning yet. Safe. -/
  | notModelled (mnemonic : String)
  /-- Raised by the host actions on a port `>= NPORTS`: not enabled (U7; log 7). Safe. -/
  | noSuchPort (p : Nat)
  /-- Raised by `BufRead` and `BufWrite` at an address `>= BUF_BYTES`: not enabled (R53; log 7). Safe. -/
  | noSuchBufByte (a : Nat)
  deriving DecidableEq, Repr

/-- What a meaning answers. -/
abbrev Result := Host.Outcome State Fault Refusal

/-- The reset values of R40 for a core of configuration `cfg`; the free bytes of `BUF` are those of `epoch`. The model's own
fields are DESIGN CHOICE: no action pending, nothing read yet, issuer 0 (log 2, log 3, log 4). -/
def State.initial (cfg : Config) (epoch : Nat) : State :=
  { cfg := cfg
    ports := List.replicate cfg.nports PortRegs.zero
    slots := List.replicate cfg.nctx none
    tables := none
    tbuilds := 0
    buf := []
    epoch := epoch
    issuer := 0
    script := []
    replies := [] }

/-- The machine right after reset (R40, R235), in the configuration R9 suggests (log 1, DESIGN CHOICE). -/
def State.reset : State := State.initial Config.suggested 0

end Sys2Proof.Machine
end

