-- ==== Sys2Proof/Machine/Operands.lean ====
section
/-! DEFINITION. The operand forms: byte lanes and byte order (R13, R54, R55, R110), operand assembly from a port's registers
(R85), block addresses (R86), the range and overlap predicates (R62, R63), engine and direction (R82, R145). -/

namespace Sys2Proof.Machine

/-! ## Engine, direction, single or batch -/

/-- The engines (R3, R82): 0 `REF`, 1 `TAB`, 2 `BAT`. -/
inductive Engine where
  | ref
  | tab
  | bat
  deriving DecidableEq, Repr

/-- The direction (R145). -/
inductive Direction where
  | enc
  | dec
  deriving DecidableEq, Repr

/-- `single` of R150: `ENC1` and `DEC1`, or the batch commands `ENCN` and `DECN`. -/
inductive Arity where
  | single
  | batch
  deriving DecidableEq, Repr

/-! ## Byte lanes and byte order -/

/-- `byte_k(w) = w[31-8k : 24-8k]` (R110): byte lane 0 is the most significant. -/
def byteLane (k : Fin 4) (w : Word) : Byte := w.extractLsb' (24 - 8 * k.val) 8

/-- `place_k(b) = zext_32(b) << (24 - 8k)` (R110). -/
def placeLane (k : Fin 4) (b : Byte) : Word := b.setWidth 32 <<< (24 - 8 * k.val)

/-- `BE32(b0, b1, b2, b3)` (R13): `b0` in bits 31:24. -/
def be32 (b0 b1 b2 b3 : Byte) : Word := b0 ++ b1 ++ b2 ++ b3

/-- `BYTES32(w)` (R13): the bytes of a word, most significant first. -/
def bytes32 (w : Word) : List Byte :=
  [w.extractLsb' 24 8, w.extractLsb' 16 8, w.extractLsb' 8 8, w.extractLsb' 0 8]

/-- Four words: the state register `X[0..3]` (R36), the key words `MK[0..3]` and the window `K[i..i+3]` (R132). -/
structure Quad where
  x0 : Word
  x1 : Word
  x2 : Word
  x3 : Word
  deriving DecidableEq, Repr

/-- Word `j` of a 16-byte string, big-endian (R54): the 4 bytes at offset `4j` (R86). It is used on strings of 16 bytes only. -/
def loadWord (s : List Byte) (j : Nat) : Word :=
  be32 (s.getD (4 * j) 0) (s.getD (4 * j + 1) 0) (s.getD (4 * j + 2) 0) (s.getD (4 * j + 3) 0)

/-- `LoadBlock(s)` (R54); the same order for key bytes (R55). -/
def loadBlock (s : List Byte) : Quad := ⟨loadWord s 0, loadWord s 1, loadWord s 2, loadWord s 3⟩

/-- `StoreBlock(Y[0..3])` (R54). -/
def storeBlock (y : Quad) : List Byte := bytes32 y.x0 ++ bytes32 y.x1 ++ bytes32 y.x2 ++ bytes32 y.x3

/-! ## Operand assembly -/

/-- The four operands that do not fit the command word, as natural numbers (R14, R85). -/
structure BufferOperands where
  src : Nat
  slen : Nat
  dst : Nat
  dlen : Nat
  deriving DecidableEq, Repr

/-- Each operand register zero-extended: "no sign, no scaling, no shifting" (R85). -/
def PortRegs.operands (r : PortRegs) : BufferOperands :=
  { src := r.src.toNat, slen := r.slen.toNat, dst := r.dst.toNat, dlen := r.dlen.toNat }

/-- The block count `N = slen / 16` (R85). -/
def BufferOperands.blockCount (o : BufferOperands) : Nat := o.slen / 16

/-- `InRange(a, n)` (R63), in natural numbers. -/
def inRange (cfg : Config) (a n : Nat) : Bool := n == 0 || decide (a + n ≤ cfg.bufBytes)

/-- The length rule of a crypt command (R150): single, both 16; batch, a multiple of 16 and equal. -/
def lengthsOk (arity : Arity) (o : BufferOperands) : Bool :=
  match arity with
  | .single => o.slen == 16 && o.dlen == 16
  | .batch => o.slen % 16 == 0 && o.dlen == o.slen

/-- The buffer relation of R62: identical or disjoint, and no constraint on an empty source. -/
def buffersOk (o : BufferOperands) : Bool :=
  o.slen == 0 || o.src == o.dst || decide (o.src + o.slen ≤ o.dst) || decide (o.dst + o.dlen ≤ o.src)

/-- A byte string cut into `n` blocks of 16 bytes, packed with no gap, in order (R86). -/
def splitBlocks : Nat → List Byte → List (List Byte)
  | 0, _ => []
  | n + 1, s => s.take 16 :: splitBlocks n (s.drop 16)

end Sys2Proof.Machine
end

