-- ==== Sys2Proof/Machine/Flags.lean ====
section
/-! DEFINITION. The status flags (R39) and the words the read-only registers show them in: `STATUS` (R25), `TSTAT` (R26),
`CFG` and `BUFSZ` (R27), `CTXV` (R28). There are no arithmetic condition codes (R39). -/

namespace Sys2Proof.Machine

/-- The numeric code of a result (R205). -/
def ResultCode.toBits : ResultCode → BitVec 2
  | .ok => 0
  | .invalidKeyLength => 1
  | .invalidArgument => 2
  | .illegalCommand => 3

/-- The result code an error reports (R205). -/
def CommandError.code : CommandError → ResultCode
  | .invalidKeyLength => .invalidKeyLength
  | .invalidArgument => .invalidArgument
  | .illegalCommand => .illegalCommand

/-- `STATUS[p]` as read: `DONE` in bit 31, `ERR` in bits 1:0, bits 30:2 read as 0 (R25). -/
def PortRegs.statusWord (r : PortRegs) : Word := BitVec.ofBool r.done ++ 0#29 ++ r.err.toBits

/-- `TRDY` (R34, R35). -/
def State.trdy (s : State) : Bool := s.tables.isSome

/-- `TSTAT` as read: bit 0 is `TRDY`, the other bits 0 (R26). -/
def State.tstatWord (s : State) : Word := 0#31 ++ BitVec.ofBool s.trdy

/-- The cipher context of slot `c`: its round keys, when `c < NCTX` and `CTXV[c] = 1` (R31, R207). -/
def State.context (s : State) (c : Nat) : Option RoundKeys :=
  if c < s.cfg.nctx then (s.slots[c]?).join else none

/-- `CTXV[c]` for a slot that exists, false for one that does not (R28, R31). -/
def State.ctxValid (s : State) (c : Nat) : Bool := (s.context c).isSome

/-- The number whose bit `i` is the `i`-th flag. -/
def flagsToNat : List Bool → Nat
  | [] => 0
  | b :: bs => b.toNat + 2 * flagsToNat bs

/-- Register `CTXV` as read: bit `c` is `CTXV[c]` for `c < NCTX`, the other bits 0 (R28). -/
def State.ctxvWord (s : State) : Word := BitVec.ofNat 32 (flagsToNat ((List.range s.cfg.nctx).map s.ctxValid))

/-- `CFG` (R27): bits 7:0 `LANES`, 15:8 `NCTX`, 23:16 `NPORTS`, 31:24 the command-set version 1 (R1). -/
def cfgWord (cfg : Config) : Word := 1#8 ++ BitVec.ofNat 8 cfg.nports ++ BitVec.ofNat 8 cfg.nctx ++ BitVec.ofNat 8 cfg.lanes

/-- `BUFSZ` (R27): `BUF_BYTES`. -/
def bufszWord (cfg : Config) : Word := BitVec.ofNat 32 cfg.bufBytes

/-- `RegRead(p, n)` of a port with registers `r`, by the register map of R22; reserved numbers read 0 (R29). -/
def readRegister (s : State) (r : PortRegs) (n : Fin 256) : Word :=
  match n.val with
  | 0 => r.cmd
  | 1 => r.src
  | 2 => r.slen
  | 3 => r.dst
  | 4 => r.dlen
  | 5 => r.statusWord
  | 6 => s.tstatWord
  | 7 => s.ctxvWord
  | 8 => cfgWord s.cfg
  | 9 => bufszWord s.cfg
  | _ => 0

/-- `RegWrite(p, n, v)` for `n` other than 0: 1 to 4 store (R23), read-only and reserved numbers are ignored (R29). -/
def PortRegs.writeRegister (r : PortRegs) (n : Fin 256) (v : Word) : PortRegs :=
  match n.val with
  | 1 => { r with src := v }
  | 2 => { r with slen := v }
  | 3 => { r with dst := v }
  | 4 => { r with dlen := v }
  | _ => r

end Sys2Proof.Machine
end

