-- ==== Sys2Proof/Machine/Ops.lean ====
section
/-! DEFINITION. The named operations over memory and registers, and the error report: the one operation every failing command
ends with (R212). -/

namespace Sys2Proof.Machine

/-! ## Memory -/

/-- The byte written at `a` since reset, if any. -/
def Memory.lookup : Memory → Nat → Option Byte
  | [], _ => none
  | (k, b) :: m, a => if k = a then some b else Memory.lookup m a

/-- `BUF[a] <- b`, keeping the addresses rising. -/
def Memory.insert : Memory → Nat → Byte → Memory
  | [], a, b => [(a, b)]
  | (k, x) :: m, a, b =>
    if a < k then (a, b) :: (k, x) :: m
    else if a = k then (a, b) :: m
    else (k, x) :: Memory.insert m a b

/-- The string stored at the addresses from `a` on. -/
def Memory.insertBytes : Memory → Nat → List Byte → Memory
  | m, _, [] => m
  | m, a, b :: bs => Memory.insertBytes (Memory.insert m a b) (a + 1) bs

/-- `BUF[a]`: the byte written since reset, else the free byte of this address and this reset (R40, R60; log 5). -/
def State.bufByte (s : State) (a : Nat) : Byte := (s.buf.lookup a).getD (Config.freeByte s.epoch a)

/-- `MemRead(a, n)` (R15). -/
def State.memRead (s : State) (a n : Nat) : List Byte := (List.range n).map fun i => s.bufByte (a + i)

/-- `MemWrite(a, n, v)` (R15), `n` the length of the string. -/
def State.memWrite (s : State) (a : Nat) (v : List Byte) : State := { s with buf := s.buf.insertBytes a v }

/-! ## Registers and slots -/

/-- The registers of the port whose command is executed. -/
def State.issuingPort (s : State) : Option PortRegs := s.ports[s.issuer]?

/-- The registers of port `p` replaced. -/
def State.setPort (s : State) (p : Nat) (r : PortRegs) : State := { s with ports := s.ports.set p r }

/-- All 32 words of slot `c` and its valid bit, in one step (R32, R134). -/
def State.setSlot (s : State) (c : Nat) (rk : RoundKeys) : State := { s with slots := s.slots.set c (some rk) }

/-- A read's value handed to its host (log 3). -/
def State.reply (s : State) (x : Reply) : State := { s with replies := s.replies ++ [x] }

/-! ## The result of a command -/

/-- `STATUS <- DONE=1, ERR=code` in one port's registers (R25). -/
def PortRegs.withResult (r : PortRegs) (code : ResultCode) : PortRegs := { r with done := true, err := code }

/-- `STATUS[p] <- DONE=1, ERR=code` for the issuing port `p`, and nothing else (R25, R212). -/
def State.report (s : State) (code : ResultCode) : State :=
  { s with ports := s.ports.modify s.issuer fun r => r.withResult code }

/-- `raise E` (R212), the analogue of taking an exception: the result code in `STATUS[p]` of the issuing port, and the
command ends; "there is no mode change, no mask change, no stack, no saved state and no transfer of control". There is no
return beside it: "There is no return instruction and nothing to restore" (R214). -/
def raise (e : CommandError) (s : State) : Result := .next (s.report e.code)

/-- The end of a command that succeeded: `STATUS[p] <- DONE=1, ERR=0`. -/
def complete (s : State) : Result := .next (s.report .ok)

end Sys2Proof.Machine
end

