-- ==== Sys2Proof/Machine/Rom.lean ====
section
/-! DEFINITION. The constant ROM (R21): `SBOX` (R111), `FK` (R130), `CK` (R131). The spec supplies the values from general
knowledge and audits them by its one known-answer vector (R8; log 10, UNVERIFIED, unsafe). Every engine reads these
same constants (R121). -/

namespace Sys2Proof.Machine

/-- The rows of the table of R111, written as the spec writes them: row `r` holds the outputs for the inputs whose high hex
digit is `r`, leftmost byte first. -/
def sboxRows : Vector (BitVec 128) 16 :=
  #v[0xd690e9fecce13db716b614c228fb2c05, 0x2b679a762abe04c3aa44132649860699,
     0x9c4250f491ef987a33540b43edcfac62, 0xe4b31ca9c908e89580df94fa758f3fa6,
     0x4707a7fcf37317ba83593c19e6854fa8, 0x686b81b27164da8bf8eb0f4b70569d35,
     0x1e240e5e6358d1a225227c3b01217887, 0xd40046579fd327524c3602e7a0c4c89e,
     0xeabf8ad240c738b5a3f7f2cef96115a1, 0xe0ae5da49b341a55ad933230f58cb1e3,
     0x1df6e22e8266ca60c02923ab0d534e6f, 0xd5db3745defd8e2f03ff6a726d6c5b51,
     0x8d1baf92bbddbc7f11d95c411f105ad8, 0x0ac13188a5cd7bbd2d74d012b8e5b4b0,
     0x8969974a0c96777e65b9f109c56ec684, 0x18f07dec3adc4d2079ee5f3ed7cb3948]

/-- `SBOX` (R111): row by the high hex digit of the input byte, column by the low one; column 0 is leftmost. -/
def sbox (v : Byte) : Byte :=
  let row := sboxRows[(v.extractLsb' 4 4).toFin]
  row.extractLsb' (8 * (15 - (v.extractLsb' 0 4).toNat)) 8

/-- `FK[0..3]` (R130). -/
def fk : Vector Word 4 := #v[0xa3b1bac6, 0x56aa3350, 0x677d9197, 0xb27022dc]

/-- `CK[0..31]` (R131). -/
def ck : Vector Word 32 :=
  #v[0x00070e15, 0x1c232a31, 0x383f464d, 0x545b6269, 0x70777e85, 0x8c939aa1, 0xa8afb6bd, 0xc4cbd2d9,
     0xe0e7eef5, 0xfc030a11, 0x181f262d, 0x343b4249, 0x50575e65, 0x6c737a81, 0x888f969d, 0xa4abb2b9,
     0xc0c7ced5, 0xdce3eaf1, 0xf8ff060d, 0x141b2229, 0x30373e45, 0x4c535a61, 0x686f767d, 0x848b9299,
     0xa0a7aeb5, 0xbcc3cad1, 0xd8dfe6ed, 0xf4fb0209, 0x10171e25, 0x2c333a41, 0x484f565d, 0x646b7279]

end Sys2Proof.Machine
end

