-- ==== Sys2Proof/Machine/Primitives.lean ====
section
/-! DEFINITION. The primitive transform units: the S-box substitution unit (R112), rotation (R113), the two linear diffusion
maps (R114, R115) and the composite transforms (R116, R117). Pure and total (R118). -/

namespace Sys2Proof.Machine

/-- `Sub(w)` (R112): the S-box on each byte lane in place, four lookups in parallel. -/
def sub (w : Word) : Word :=
  be32 (sbox (byteLane 0 w)) (sbox (byteLane 1 w)) (sbox (byteLane 2 w)) (sbox (byteLane 3 w))

/-- `rotl(w, n)` (R113). The amount is a `Fin 32`: 1 to 31 as the spec has it, and 0, which gives `w` as R113 allows; 32 and
above cannot be written (U10; log 16, DESIGN CHOICE, safe). -/
def rotl (w : Word) (n : Fin 32) : Word := (w <<< n.val) ||| (w >>> (32 - n.val))

/-- `LData(w)`, the data-path map (R114). -/
def lData (w : Word) : Word := w ^^^ rotl w 2 ^^^ rotl w 10 ^^^ rotl w 18 ^^^ rotl w 24

/-- `LKey(w)`, the key-path map (R115). -/
def lKey (w : Word) : Word := w ^^^ rotl w 13 ^^^ rotl w 23

/-- `TData(x) = LData(Sub(x))` (R116). -/
def tData (x : Word) : Word := lData (sub x)

/-- `TKey(x) = LKey(Sub(x))` (R117). -/
def tKey (x : Word) : Word := lKey (sub x)

end Sys2Proof.Machine
end

