-- ==== Sys2Proof/Machine/KeySchedule.lean ====
section
/-! DEFINITION. The key-schedule expander (R132) and the command `KEYEXP` (R134). -/

namespace Sys2Proof.Machine

/-- `K[i+4]` from the window `K[i..i+3]` and `CK[i]` (R132). -/
def nextKeyWord (k : Quad) (c : Word) : Word := k.x0 ^^^ tKey (k.x1 ^^^ k.x2 ^^^ k.x3 ^^^ c)

/-- The words `K[i+4]` in increasing `i`, one per round constant; the hardware keeps a sliding window of four (R36, R132). -/
def expandRounds (k : Quad) : List Word → List Word
  | [] => []
  | c :: cs => nextKeyWord k c :: expandRounds ⟨k.x1, k.x2, k.x3, nextKeyWord k c⟩ cs

theorem expandRounds_length (k : Quad) (cs : List Word) : (expandRounds k cs).length = cs.length := by
  induction cs generalizing k with
  | nil => rfl
  | cons c cs ih => simp [expandRounds, ih]

/-- `K[0..3] = MK[j] ^ FK[j]`, the key words big-endian (R55, R132). -/
def keyWindow (key : List Byte) : Quad :=
  let mk := loadBlock key
  ⟨mk.x0 ^^^ fk[0], mk.x1 ^^^ fk[1], mk.x2 ^^^ fk[2], mk.x3 ^^^ fk[3]⟩

/-- `ExpandKey(key)` (R132): `rk[i] = K[i+4]`, one schedule for both directions (R133). -/
def expandKey (key : List Byte) : RoundKeys :=
  ⟨(expandRounds (keyWindow key) ck.toList).toArray, by simp [expandRounds_length]⟩

/-- The checks of `KEYEXP` in their order; the first that fails decides (R134, R210). -/
def keyexpError (sp : Bool) (c : Nat) (o : BufferOperands) (cfg : Config) : Option CommandError :=
  if !sp then some .invalidArgument
  else if o.slen ≠ 16 then some .invalidKeyLength
  else if cfg.nctx ≤ c then some .invalidArgument
  else if !inRange cfg o.src 16 then some .invalidArgument
  else none

/-- `KEYEXP c, [src, slen]` (R134). The key is not retained (R37) and the tables are not touched. -/
def execKeyexp (sp : Bool) (c : Nat) (s : State) : Result :=
  match s.issuingPort with
  | none => .fault (.noIssuingPort s.issuer)
  | some r =>
    match keyexpError sp c r.operands s.cfg with
    | some e => raise e s
    | none => complete (s.setSlot c (expandKey (s.memRead r.operands.src 16)))

end Sys2Proof.Machine
end

