-- ==== Sys2Proof/Machine/RoundEngine.lean ====
section
/-! DEFINITION. The 32-round permutation engine (R145 to R147). The transform of a round is a parameter: `TData` in the
reference engine, `TDataTab` in the merged-table engine (R170). -/

namespace Sys2Proof.Machine

/-- `Order(dir)` (R145): the round indices 0 to 31, or 31 to 0. -/
def roundOrder : Direction → List (Fin 32)
  | .enc => List.finRange 32
  | .dec => (List.finRange 32).reverse

/-- `RoundStep(X, k)` (R146): one word replaced, then the register shifted. -/
def roundStep (td : Word → Word) (x : Quad) (k : Word) : Quad :=
  ⟨x.x1, x.x2, x.x3, x.x0 ^^^ td (x.x1 ^^^ x.x2 ^^^ x.x3 ^^^ k)⟩

/-- The final reverse permutation `Y = (X[3], X[2], X[1], X[0])` (R147). -/
def reverseQuad (x : Quad) : Quad := ⟨x.x3, x.x2, x.x1, x.x0⟩

/-- The 32 round steps (R147). -/
def roundWalk (td : Word → Word) (rk : RoundKeys) (dir : Direction) (x : Quad) : Quad :=
  (roundOrder dir).foldl (fun x i => roundStep td x rk[i]) x

/-- `CryptBlock(rk, dir, blk)` (R147) when `td` is `TData`; `CryptBlock_TAB` (R170) when it is `TDataTab`. -/
def cryptBlock (td : Word → Word) (rk : RoundKeys) (dir : Direction) (blk : List Byte) : List Byte :=
  storeBlock (reverseQuad (roundWalk td rk dir (loadBlock blk)))

end Sys2Proof.Machine
end

