-- ==== Sys2Proof/Machine/BatchEngine.lean ====
section
/-! DEFINITION. The batch datapath: `LANES` state registers in lock-step (R185 to R190). Only the active lanes of a chunk are
represented: inactive lanes hold no value and are read into nothing (R189). -/

namespace Sys2Proof.Machine

/-- The lane vectors `X_0`, `X_1`, `X_2`, `X_3`: entry `l` of `X_j` is word `j` of the block of lane `l` (R185). -/
structure LaneVectors where
  x0 : List Word
  x1 : List Word
  x2 : List Word
  x3 : List Word
  deriving DecidableEq, Repr

/-- Each active lane loaded with its block (R190). -/
def loadLanes (blocks : List (List Byte)) : LaneVectors :=
  ⟨blocks.map (loadWord · 0), blocks.map (loadWord · 1), blocks.map (loadWord · 2), blocks.map (loadWord · 3)⟩

/-- One vector round (R187): the subkey is the same word in every lane, and no lane reads another's words. -/
def vectorRound (td : Word → Word) (v : LaneVectors) (k : Word) : LaneVectors :=
  let mixed := List.zipWith (· ^^^ ·) (List.zipWith (· ^^^ ·) v.x1 v.x2) v.x3
  let f := List.zipWith (· ^^^ ·) v.x0 (mixed.map fun w => td (w ^^^ k))
  ⟨v.x1, v.x2, v.x3, f⟩

/-- The lanes serialised one by one, the words given in output order (R190). -/
def storeLanes : List Word → List Word → List Word → List Word → List (List Byte)
  | a :: as, b :: bs, c :: cs, d :: ds => storeBlock ⟨a, b, c, d⟩ :: storeLanes as bs cs ds
  | _, _, _, _ => []

/-- One chunk: all active lanes through the 32 rounds in lock-step, then the same final permutation (R186, R190). -/
def cryptChunk (td : Word → Word) (rk : RoundKeys) (dir : Direction) (blocks : List (List Byte)) : List (List Byte) :=
  let v := (roundOrder dir).foldl (fun v i => vectorRound td v rk[i]) (loadLanes blocks)
  storeLanes v.x3 v.x2 v.x1 v.x0

/-- `n` chunks of `lanes` blocks, the last with what is left (R186). -/
def cryptChunks (td : Word → Word) (rk : RoundKeys) (dir : Direction) (lanes : Nat) :
    Nat → List (List Byte) → List (List Byte)
  | 0, _ => []
  | n + 1, blocks =>
    cryptChunk td rk dir (blocks.take lanes) ++ cryptChunks td rk dir lanes n (blocks.drop lanes)

/-- `CryptBatch` (R190) over the blocks of its input: `ceil(N / LANES)` chunks (R186). -/
def cryptBatch (td : Word → Word) (rk : RoundKeys) (dir : Direction) (lanes : Nat) (blocks : List (List Byte)) :
    List (List Byte) :=
  cryptChunks td rk dir lanes ((blocks.length + lanes - 1) / lanes) blocks

end Sys2Proof.Machine
end

