-- ==== Sys2Proof/Machine/MergedTables.lean ====
section
/-! DEFINITION. The merged lookup-table quad: its contents (R165), its construction exactly once at first use (R166) and the
table form of the data transform (R169). -/

namespace Sys2Proof.Machine

/-- `T[k][v] = LData(place_k(SBOX[v]))` (R165). -/
def tableEntry (k : Fin 4) (v : Byte) : Word := lData (placeLane k (sbox v))

/-- The 1024 final entries (R165). -/
def builtTables : Tables := Vector.ofFn fun k => Vector.ofFn fun v => tableEntry k (BitVec.ofFin v)

/-- The entry `T[k][v]` of a quad. -/
def lookupTable (t : Tables) (k : Fin 4) (v : Byte) : Word := t[k][v.toFin]

/-- `EnsureTables()` (R166): the tables to read, and the state after. All entries, the flag and the ghost counter change in
one step, or nothing does. A table is read only through what this answers, so never while `TRDY = 0` (R68, R169, U4). -/
def ensureTables (s : State) : Tables × State :=
  match s.tables with
  | some t => (t, s)
  | none => (builtTables, { s with tables := some builtTables, tbuilds := s.tbuilds + 1 })

/-- `TDataTab(w)` (R169): four lookups and three XORs. -/
def tDataTab (t : Tables) (w : Word) : Word :=
  lookupTable t 0 (byteLane 0 w) ^^^ lookupTable t 1 (byteLane 1 w) ^^^
    lookupTable t 2 (byteLane 2 w) ^^^ lookupTable t 3 (byteLane 3 w)

/-- `UsesTables(eng)` (R172): `BAT` uses them when `LANES >= 2` (R188). -/
def usesTables (cfg : Config) : Engine → Bool
  | .ref => false
  | .tab => true
  | .bat => decide (2 ≤ cfg.lanes)

end Sys2Proof.Machine
end

