-- ==== Sys2Proof/Machine/Crypt.lean ====
section
/-! DEFINITION. `ExecCrypt` (R150), the procedure shared by `ENC1`, `DEC1`, `ENCN`, `DECN`, and `CryptBlocks` (R151). -/

namespace Sys2Proof.Machine

/-- `CryptBlocks(eng, rk, dir, in)` (R151), by the engine's own datapath: `REF` and `TAB` block after block (R170), `BAT` by
`CryptBatch` (R190). The three are equal by a theorem, not by definition (R174). -/
def cryptBlocks (eng : Engine) (td : Word → Word) (lanes : Nat) (rk : RoundKeys) (dir : Direction)
    (blocks : List (List Byte)) : List (List Byte) :=
  match eng with
  | .ref => blocks.map (cryptBlock td rk dir)
  | .tab => blocks.map (cryptBlock td rk dir)
  | .bat => cryptBatch td rk dir lanes blocks

/-- Step 3 of R150: the transform the engine's rounds use, and the state after `EnsureTables` where the engine uses the
tables (R172, R173, R188). -/
def prepareTransform (eng : Engine) (s : State) : (Word → Word) × State :=
  if usesTables s.cfg eng then
    let (t, s') := ensureTables s
    (tDataTab t, s')
  else (tData, s)

/-- Step 1 of R150: the checks, all before anything else is read or written (R211). They give one code, so their order is
not observable (R210; log 15). Where they pass they answer the round keys of the slot. -/
def cryptCheck (arity : Arity) (dp sp : Bool) (c : Nat) (o : BufferOperands) (s : State) :
    Except CommandError RoundKeys :=
  if !(sp && dp) then .error .invalidArgument
  else
    match s.context c with
    | none => .error .invalidArgument
    | some rk =>
      if !lengthsOk arity o then .error .invalidArgument
      else if !(inRange s.cfg o.src o.slen && inRange s.cfg o.dst o.dlen) then .error .invalidArgument
      else if !buffersOk o then .error .invalidArgument
      else .ok rk

/-- Steps 3 to 5 of R150, for `N >= 1`: the source is read whole before the destination is written (R61). -/
def cryptBuffers (eng : Engine) (dir : Direction) (rk : RoundKeys) (o : BufferOperands) (s : State) : State :=
  let (td, s') := prepareTransform eng s
  let input := s'.memRead o.src (16 * o.blockCount)
  let output := cryptBlocks eng td s'.cfg.lanes rk dir (splitBlocks o.blockCount input)
  s'.memWrite o.dst output.flatten

/-- `ExecCrypt(p, w)` (R150) for the issuing port, after `CMD[p] <- w` (`Machine.regWrite`). -/
def execCrypt (eng : Engine) (dir : Direction) (arity : Arity) (dp sp : Bool) (c : Nat) (s : State) : Result :=
  match s.issuingPort with
  | none => .fault (.noIssuingPort s.issuer)
  | some r =>
    match cryptCheck arity dp sp c r.operands s with
    | .error e => raise e s
    | .ok rk =>
      -- an empty batch: no table access, no BUF access (R191)
      if r.operands.blockCount = 0 then complete s
      else complete (cryptBuffers eng dir rk r.operands s)

end Sys2Proof.Machine
end

