-- ==== Sys2Proof/Machine/MultiBlock.lean ====
section
/-! DEFINITION. The multi-block commands `ENCN` (R192) and `DECN` (R193), by engine. -/

namespace Sys2Proof.Machine

/-- `ENCN.REF` (R192): `ExecCrypt` with `dir = ENC`, `single = false`. -/
def execEncnRef (dp sp : Bool) (c : Nat) (s : State) : Result := execCrypt .ref .enc .batch dp sp c s

/-- `ENCN.TAB` (R192). -/
def execEncnTab (dp sp : Bool) (c : Nat) (s : State) : Result := execCrypt .tab .enc .batch dp sp c s

/-- `ENCN.BAT` (R192). -/
def execEncnBat (dp sp : Bool) (c : Nat) (s : State) : Result := execCrypt .bat .enc .batch dp sp c s

/-- `DECN.REF` (R193): `ExecCrypt` with `dir = DEC`, `single = false`. -/
def execDecnRef (dp sp : Bool) (c : Nat) (s : State) : Result := execCrypt .ref .dec .batch dp sp c s

/-- `DECN.TAB` (R193). -/
def execDecnTab (dp sp : Bool) (c : Nat) (s : State) : Result := execCrypt .tab .dec .batch dp sp c s

/-- `DECN.BAT` (R193). -/
def execDecnBat (dp sp : Bool) (c : Nat) (s : State) : Result := execCrypt .bat .dec .batch dp sp c s

end Sys2Proof.Machine
end

