-- ==== Sys2Proof/Machine/SingleBlock.lean ====
section
/-! DEFINITION. The single-block commands `ENC1` (R152) and `DEC1` (R153), by engine. -/

namespace Sys2Proof.Machine

/-- `ENC1.REF` (R152): `ExecCrypt` with `dir = ENC`, `single = true`. -/
def execEnc1Ref (dp sp : Bool) (c : Nat) (s : State) : Result := execCrypt .ref .enc .single dp sp c s

/-- `ENC1.TAB` (R152). -/
def execEnc1Tab (dp sp : Bool) (c : Nat) (s : State) : Result := execCrypt .tab .enc .single dp sp c s

/-- `ENC1.BAT` (R152): a batch of one block. -/
def execEnc1Bat (dp sp : Bool) (c : Nat) (s : State) : Result := execCrypt .bat .enc .single dp sp c s

/-- `DEC1.REF` (R153): `ExecCrypt` with `dir = DEC`, `single = true`. -/
def execDec1Ref (dp sp : Bool) (c : Nat) (s : State) : Result := execCrypt .ref .dec .single dp sp c s

/-- `DEC1.TAB` (R153). -/
def execDec1Tab (dp sp : Bool) (c : Nat) (s : State) : Result := execCrypt .tab .dec .single dp sp c s

/-- `DEC1.BAT` (R153). -/
def execDec1Bat (dp sp : Bool) (c : Nat) (s : State) : Result := execCrypt .bat .dec .single dp sp c s

end Sys2Proof.Machine
end

