-- ==== Sys2Proof/Machine/Dispatch.lean ====
section
/-! DEFINITION. The meaning of every command: one arm per constructor of `Instr`. The command is that of port `s.issuer`, whose
`CMD` register already holds the word (R24). -/

namespace Sys2Proof.Machine

def exec (i : Instr) (s : State) : Host.Outcome State Fault Refusal :=
  match i with
  | .keyexp sp c => Sys2Proof.Machine.execKeyexp sp c s
  | .enc1Ref dp sp c => Sys2Proof.Machine.execEnc1Ref dp sp c s
  | .enc1Tab dp sp c => Sys2Proof.Machine.execEnc1Tab dp sp c s
  | .enc1Bat dp sp c => Sys2Proof.Machine.execEnc1Bat dp sp c s
  | .dec1Ref dp sp c => Sys2Proof.Machine.execDec1Ref dp sp c s
  | .dec1Tab dp sp c => Sys2Proof.Machine.execDec1Tab dp sp c s
  | .dec1Bat dp sp c => Sys2Proof.Machine.execDec1Bat dp sp c s
  | .encnRef dp sp c => Sys2Proof.Machine.execEncnRef dp sp c s
  | .encnTab dp sp c => Sys2Proof.Machine.execEncnTab dp sp c s
  | .encnBat dp sp c => Sys2Proof.Machine.execEncnBat dp sp c s
  | .decnRef dp sp c => Sys2Proof.Machine.execDecnRef dp sp c s
  | .decnTab dp sp c => Sys2Proof.Machine.execDecnTab dp sp c s
  | .decnBat dp sp c => Sys2Proof.Machine.execDecnBat dp sp c s

end Sys2Proof.Machine
end

