-- ==== Sys2Proof/Machine/HostActions.lean ====
section
/-! DEFINITION. The five host actions (R10), each one atomic step (R60, R65). -/

namespace Sys2Proof.Machine

/-- The command word `w` accepted by port `p`, whose registers are `r`: `CMD[p] <- w` (R24), and `p` is the issuer (log 4). -/
def State.acceptCommand (s : State) (p : Nat) (r : PortRegs) (w : Word) : State :=
  { s.setPort p { r with cmd := w } with issuer := p }

/-- A word executed as a command of the issuing port: its meaning, or `raise IllegalCommand` (R87, R208). -/
def runCommand (w : Word) (s : State) : Result :=
  match decode w with
  | .error _ => raise .illegalCommand s
  | .ok i => exec i s

/-- `RegWrite(p, n, v)`: number 0 stores the word and executes it (R24), the others as R23 and R29 say. A port that does not
exist is refused (U7). -/
def regWrite (p : Nat) (n : Fin 256) (v : Word) (s : State) : Result :=
  match s.ports[p]? with
  | none => .refused (.noSuchPort p)
  | some r =>
    if n.val = 0 then runCommand v (s.acceptCommand p r v)
    else .next (s.setPort p (r.writeRegister n v))

/-- `RegRead(p, n)`: the value goes to the host; no read has a side effect (R22, R29, R60). -/
def regRead (p : Nat) (n : Fin 256) (s : State) : Result :=
  match s.ports[p]? with
  | none => .refused (.noSuchPort p)
  | some r => .next (s.reply (.reg p n (readRegister s r n)))

/-- `BufWrite(a, b)` (R52); refused at an address that does not exist (R53). -/
def bufWrite (a : Nat) (b : Byte) (s : State) : Result :=
  if a < s.cfg.bufBytes then .next (s.memWrite a [b]) else .refused (.noSuchBufByte a)

/-- `BufRead(a)` (R52); refused at an address that does not exist (R53). -/
def bufRead (a : Nat) (s : State) : Result :=
  if a < s.cfg.bufBytes then .next (s.reply (.buf a (s.bufByte a))) else .refused (.noSuchBufByte a)

/-- `Reset` (R235): every piece of state at its reset value (R40), in the same configuration. The bytes of `BUF` are free
again, "not necessarily what it held before the reset": the next epoch's (log 5). The hosts' pending actions and what they
have read are not the core's, and stay (log 2, log 3, log 21). -/
def resetCore (s : State) : State :=
  { State.initial s.cfg (s.epoch + 1) with script := s.script, replies := s.replies }

/-- One host action. -/
def perform (a : HostAction) (s : State) : Result :=
  match a with
  | .regWrite p n v => regWrite p n v s
  | .regRead p n => regRead p n s
  | .bufWrite a b => bufWrite a b s
  | .bufRead a => bufRead a s
  | .reset => .next (resetCore s)

end Sys2Proof.Machine
end

