-- ==== Sys2Proof/Machine/Step.lean ====
section
/-! DEFINITION. One step: the next pending host action, as one atomic action of the total order (R10, R65). -/

namespace Sys2Proof.Machine

/-- The actions still pending after the one that is performed. -/
def State.withScript (s : State) (rest : List HostAction) : State := { s with script := rest }

/-- One step. With no action pending nothing happens: the core "has no agent of its own that steps without a host action"
(R10), and the state after the last action is the end state (R11; log 6, DESIGN CHOICE, safe). -/
def step (s : State) : Host.Outcome State Fault Refusal :=
  match s.script with
  | [] => .next s
  | a :: rest => perform a (s.withScript rest)

/-- The command word `w` as the next host action: a `CMD` write of port 0 put before the pending actions (R24, R30;
log 19). -/
def State.withFetchWord (s : State) (nbits w : Nat) : State :=
  { s with script := .regWrite 0 0 (BitVec.ofNat 32 (w % 2 ^ nbits)) :: s.script }

end Sys2Proof.Machine
end

