-- ==== Sys2Proof/Machine/HostScript.lean ====
section
/-! DEFINITION. The host-script syntax (R91) and the command mnemonics as pseudo-instructions over register writes (R92): lines
as data, expanded to host actions. Numerals and comments of the written notation have no counterpart (log 17). -/

namespace Sys2Proof.Machine

/-- The register names of R22. -/
inductive RegName where
  | cmd
  | src
  | slen
  | dst
  | dlen
  | status
  | tstat
  | ctxv
  | cfg
  | bufsz
  deriving DecidableEq, Repr

/-- The register numbers of R22. -/
def RegName.number : RegName → Fin 256
  | .cmd => 0
  | .src => 1
  | .slen => 2
  | .dst => 3
  | .dlen => 4
  | .status => 5
  | .tstat => 6
  | .ctxv => 7
  | .cfg => 8
  | .bufsz => 9

/-- A bracketed buffer `[address, length]` of R92. -/
structure BufferRef where
  addr : Word
  len : Word
  deriving DecidableEq, Repr

/-- The lines of R91, and the mnemonics of R92; `none` is `-`, an absent buffer. -/
inductive ScriptLine where
  /-- `PORT p`: later lines are issued on port `p`. -/
  | port (p : Nat)
  /-- `RESET`. -/
  | reset
  /-- `WR name, v`. -/
  | wr (name : RegName) (v : Word)
  /-- `RD name`. -/
  | rd (name : RegName)
  /-- `PUT a, hexstring`. -/
  | put (a : Nat) (bytes : List Byte)
  /-- `GET a, n`. -/
  | get (a n : Nat)
  /-- `KEYEXP c, [src, slen]`. -/
  | keyexp (c : Nat) (key : Option BufferRef)
  /-- `OPC.ENG c, [src, slen], [dst, dlen]`, `OPC` by its arity and direction. -/
  | crypt (arity : Arity) (dir : Direction) (eng : Engine) (c : Nat) (src dst : Option BufferRef)
  deriving DecidableEq, Repr

/-- The `OP` number of R81. -/
def cryptOp : Arity → Direction → Word
  | .single, .enc => 2
  | .single, .dec => 3
  | .batch, .enc => 4
  | .batch, .dec => 5

/-- The `ENG` number of R82. -/
def engineNumber : Engine → Word
  | .ref => 0
  | .tab => 1
  | .bat => 2

/-- The two `WR` lines of a bracketed buffer; none for `-` (R92). -/
def bufferWrites (p : Nat) (addr len : RegName) : Option BufferRef → List HostAction
  | some b => [.regWrite p addr.number b.addr, .regWrite p len.number b.len]
  | none => []

/-- `SP` is `0x00010000` and `DP` is `0x00020000`, cleared by `-` (R92). -/
def presenceBit (bit : Word) (b : Option BufferRef) : Word := if b.isSome then bit else 0

/-- `c << 8` (R92). -/
def slotBits (c : Nat) : Word := BitVec.ofNat 32 c <<< 8

/-- The command word a mnemonic's last `WR CMD` writes (R92). -/
def keyexpWord (c : Nat) (key : Option BufferRef) : Word :=
  presenceBit 0x00010000 key ||| 0x00000001 ||| slotBits c

/-- The command word of a crypt mnemonic (R92). -/
def cryptWord (arity : Arity) (dir : Direction) (eng : Engine) (c : Nat) (src dst : Option BufferRef) : Word :=
  presenceBit 0x00020000 dst ||| presenceBit 0x00010000 src ||| slotBits c ||| engineNumber eng <<< 4 |||
    cryptOp arity dir

/-- The actions of one line issued on port `p` (R91, R92). -/
def expandLine (p : Nat) : ScriptLine → List HostAction
  | .port _ => []
  | .reset => [.reset]
  | .wr name v => [.regWrite p name.number v]
  | .rd name => [.regRead p name.number]
  | .put a bytes => bytes.zipIdx.map fun x => .bufWrite (a + x.2) x.1
  | .get a n => (List.range n).map fun i => .bufRead (a + i)
  | .keyexp c key => bufferWrites p .src .slen key ++ [.regWrite p 0 (keyexpWord c key)]
  | .crypt arity dir eng c src dst =>
    bufferWrites p .src .slen src ++ bufferWrites p .dst .dlen dst ++
      [.regWrite p 0 (cryptWord arity dir eng c src dst)]

/-- A script, its lines issued on port `p` until a `PORT` line says otherwise (R91: "default 0"). -/
def expandScript : Nat → List ScriptLine → List HostAction
  | _, [] => []
  | _, .port q :: lines => expandScript q lines
  | p, line :: lines => expandLine p line ++ expandScript p lines

end Sys2Proof.Machine
end

