-- ==== Sys2Proof/Safety.lean ====
section
/-! DEFINITION. What a good state is (the invariant), which host actions are enabled, what a safe run is, and the relations
between states that the claims use. -/

namespace Sys2Proof.Machine

/-- The invariant of the core: the facts about its state that the spec gives and that every step keeps. -/
structure State.Inv (s : State) : Prop where
  /-- The open parameters are in their ranges (R9). -/
  cfgWf : s.cfg.wf
  /-- One register window per port (R22). -/
  portCount : s.ports.length = s.cfg.nports
  /-- One entry per context slot (R31). -/
  slotCount : s.slots.length = s.cfg.nctx
  /-- "When `TRDY = 1` every entry has exactly the value of R165" (R34). -/
  tablesBuilt : ∀ t, s.tables = some t → t = builtTables
  /-- `TBUILDS <= 1` and `TBUILDS = 1 <-> TRDY = 1` (R41). -/
  buildsOnce : s.tbuilds = s.trdy.toNat
  /-- `BUF` is in its canonical form. -/
  bufWf : s.buf.wf
  /-- No byte is listed at an address that does not exist (R51). -/
  bufInRange : ∀ x ∈ s.buf, x.1 < s.cfg.bufBytes
  /-- The issuing port is a port (log 4). -/
  issuerIsPort : s.issuer < s.cfg.nports

/-- The actions that are enabled (R11, R53, U7): those of ports that exist, at addresses that exist. -/
def HostAction.Enabled (cfg : Config) : HostAction → Prop
  | .regWrite p _ _ => p < cfg.nports
  | .regRead p _ => p < cfg.nports
  | .bufWrite a _ => a < cfg.bufBytes
  | .bufRead a => a < cfg.bufBytes
  | .reset => True

/-- Every pending action is enabled. No step changes the configuration, so this says it of the actions when their turn
comes. -/
def State.ScriptEnabled (s : State) : Prop := ∀ a ∈ s.script, a.Enabled s.cfg

/-- A safe run of `n` steps: no fault and no refusal. -/
def State.RunsSafely (s : State) (n : Nat) : Prop := ∃ t, Sys2Proof.core.run n s = .next t

/-- Everything a command leaves alone, whatever the command: the configuration, the hosts' side, and the model's own
fields. -/
def State.SameHostSide (s t : State) : Prop :=
  t.cfg = s.cfg ∧ t.epoch = s.epoch ∧ t.issuer = s.issuer ∧ t.script = s.script ∧ t.replies = s.replies

/-- `STATUS[p] <- DONE=1, ERR=code` for the issuing port `p`, whose registers were `r`, and nothing else (R212). -/
def State.withStatus (s : State) (r : PortRegs) (code : ResultCode) : State :=
  { s with ports := s.ports.set s.issuer { r with done := true, err := code } }

/-- What becomes of the table quad: built if the command uses it and it was not (R166), else as it was. -/
def State.TablesAfter (uses : Bool) (s t : State) : Prop :=
  if uses then t.tables = some builtTables ∧ t.tbuilds = (if s.trdy then s.tbuilds else s.tbuilds + 1)
  else t.tables = s.tables ∧ t.tbuilds = s.tbuilds

/-- The source and destination ranges are in `BUF` (R63) and identical or disjoint (R62), with lengths `n` and `n`. -/
def BufferOperands.Good (o : BufferOperands) (cfg : Config) : Prop :=
  (o.slen = 0 ∨ o.src + o.slen ≤ cfg.bufBytes) ∧ (o.dlen = 0 ∨ o.dst + o.dlen ≤ cfg.bufBytes) ∧
    (o.slen = 0 ∨ o.src = o.dst ∨ o.src + o.slen ≤ o.dst ∨ o.dst + o.dlen ≤ o.src)

/-- The lengths a crypt command accepts (R150). -/
def BufferOperands.GoodLengths (o : BufferOperands) : Arity → Prop
  | .single => o.slen = 16 ∧ o.dlen = 16
  | .batch => o.slen % 16 = 0 ∧ o.dlen = o.slen

end Sys2Proof.Machine

namespace Sys2Proof

/-- The crypt command of an arity, a direction and an engine (R82, R90). -/
def cryptInstr : Machine.Arity → Machine.Direction → Machine.Engine → Bool → Bool → Nat → Instr
  | .single, .enc, .ref => .enc1Ref
  | .single, .enc, .tab => .enc1Tab
  | .single, .enc, .bat => .enc1Bat
  | .single, .dec, .ref => .dec1Ref
  | .single, .dec, .tab => .dec1Tab
  | .single, .dec, .bat => .dec1Bat
  | .batch, .enc, .ref => .encnRef
  | .batch, .enc, .tab => .encnTab
  | .batch, .enc, .bat => .encnBat
  | .batch, .dec, .ref => .decnRef
  | .batch, .dec, .tab => .decnTab
  | .batch, .dec, .bat => .decnBat

end Sys2Proof
end

