-- ==== Sys2Proof/Laws/State.lean ====
section
/-! SUPPORT. One lemma per field per update of the state, true by `rfl`, so that no later proof unfolds an update. -/

namespace Sys2Proof.Machine

variable (s : State)

/-! ### `setPort` -/

@[simp] theorem setPort_cfg (p : Nat) (r : PortRegs) : (s.setPort p r).cfg = s.cfg := rfl
@[simp] theorem setPort_ports (p : Nat) (r : PortRegs) : (s.setPort p r).ports = s.ports.set p r := rfl
@[simp] theorem setPort_slots (p : Nat) (r : PortRegs) : (s.setPort p r).slots = s.slots := rfl
@[simp] theorem setPort_tables (p : Nat) (r : PortRegs) : (s.setPort p r).tables = s.tables := rfl
@[simp] theorem setPort_tbuilds (p : Nat) (r : PortRegs) : (s.setPort p r).tbuilds = s.tbuilds := rfl
@[simp] theorem setPort_buf (p : Nat) (r : PortRegs) : (s.setPort p r).buf = s.buf := rfl
@[simp] theorem setPort_epoch (p : Nat) (r : PortRegs) : (s.setPort p r).epoch = s.epoch := rfl
@[simp] theorem setPort_issuer (p : Nat) (r : PortRegs) : (s.setPort p r).issuer = s.issuer := rfl
@[simp] theorem setPort_script (p : Nat) (r : PortRegs) : (s.setPort p r).script = s.script := rfl
@[simp] theorem setPort_replies (p : Nat) (r : PortRegs) : (s.setPort p r).replies = s.replies := rfl

/-! ### `setSlot` -/

@[simp] theorem setSlot_cfg (c : Nat) (rk : RoundKeys) : (s.setSlot c rk).cfg = s.cfg := rfl
@[simp] theorem setSlot_ports (c : Nat) (rk : RoundKeys) : (s.setSlot c rk).ports = s.ports := rfl
@[simp] theorem setSlot_slots (c : Nat) (rk : RoundKeys) : (s.setSlot c rk).slots = s.slots.set c (some rk) := rfl
@[simp] theorem setSlot_tables (c : Nat) (rk : RoundKeys) : (s.setSlot c rk).tables = s.tables := rfl
@[simp] theorem setSlot_tbuilds (c : Nat) (rk : RoundKeys) : (s.setSlot c rk).tbuilds = s.tbuilds := rfl
@[simp] theorem setSlot_buf (c : Nat) (rk : RoundKeys) : (s.setSlot c rk).buf = s.buf := rfl
@[simp] theorem setSlot_epoch (c : Nat) (rk : RoundKeys) : (s.setSlot c rk).epoch = s.epoch := rfl
@[simp] theorem setSlot_issuer (c : Nat) (rk : RoundKeys) : (s.setSlot c rk).issuer = s.issuer := rfl
@[simp] theorem setSlot_script (c : Nat) (rk : RoundKeys) : (s.setSlot c rk).script = s.script := rfl
@[simp] theorem setSlot_replies (c : Nat) (rk : RoundKeys) : (s.setSlot c rk).replies = s.replies := rfl

/-! ### `memWrite` -/

@[simp] theorem memWrite_cfg (a : Nat) (v : List Byte) : (s.memWrite a v).cfg = s.cfg := rfl
@[simp] theorem memWrite_ports (a : Nat) (v : List Byte) : (s.memWrite a v).ports = s.ports := rfl
@[simp] theorem memWrite_slots (a : Nat) (v : List Byte) : (s.memWrite a v).slots = s.slots := rfl
@[simp] theorem memWrite_tables (a : Nat) (v : List Byte) : (s.memWrite a v).tables = s.tables := rfl
@[simp] theorem memWrite_tbuilds (a : Nat) (v : List Byte) : (s.memWrite a v).tbuilds = s.tbuilds := rfl
@[simp] theorem memWrite_buf (a : Nat) (v : List Byte) : (s.memWrite a v).buf = s.buf.insertBytes a v := rfl
@[simp] theorem memWrite_epoch (a : Nat) (v : List Byte) : (s.memWrite a v).epoch = s.epoch := rfl
@[simp] theorem memWrite_issuer (a : Nat) (v : List Byte) : (s.memWrite a v).issuer = s.issuer := rfl
@[simp] theorem memWrite_script (a : Nat) (v : List Byte) : (s.memWrite a v).script = s.script := rfl
@[simp] theorem memWrite_replies (a : Nat) (v : List Byte) : (s.memWrite a v).replies = s.replies := rfl

/-! ### `reply` -/

@[simp] theorem reply_cfg (x : Reply) : (s.reply x).cfg = s.cfg := rfl
@[simp] theorem reply_ports (x : Reply) : (s.reply x).ports = s.ports := rfl
@[simp] theorem reply_slots (x : Reply) : (s.reply x).slots = s.slots := rfl
@[simp] theorem reply_tables (x : Reply) : (s.reply x).tables = s.tables := rfl
@[simp] theorem reply_tbuilds (x : Reply) : (s.reply x).tbuilds = s.tbuilds := rfl
@[simp] theorem reply_buf (x : Reply) : (s.reply x).buf = s.buf := rfl
@[simp] theorem reply_epoch (x : Reply) : (s.reply x).epoch = s.epoch := rfl
@[simp] theorem reply_issuer (x : Reply) : (s.reply x).issuer = s.issuer := rfl
@[simp] theorem reply_script (x : Reply) : (s.reply x).script = s.script := rfl
@[simp] theorem reply_replies (x : Reply) : (s.reply x).replies = s.replies ++ [x] := rfl

/-! ### `report` -/

@[simp] theorem report_cfg (k : ResultCode) : (s.report k).cfg = s.cfg := rfl
@[simp] theorem report_ports (k : ResultCode) : (s.report k).ports = s.ports.modify s.issuer fun r => r.withResult k := rfl
@[simp] theorem report_slots (k : ResultCode) : (s.report k).slots = s.slots := rfl
@[simp] theorem report_tables (k : ResultCode) : (s.report k).tables = s.tables := rfl
@[simp] theorem report_tbuilds (k : ResultCode) : (s.report k).tbuilds = s.tbuilds := rfl
@[simp] theorem report_buf (k : ResultCode) : (s.report k).buf = s.buf := rfl
@[simp] theorem report_epoch (k : ResultCode) : (s.report k).epoch = s.epoch := rfl
@[simp] theorem report_issuer (k : ResultCode) : (s.report k).issuer = s.issuer := rfl
@[simp] theorem report_script (k : ResultCode) : (s.report k).script = s.script := rfl
@[simp] theorem report_replies (k : ResultCode) : (s.report k).replies = s.replies := rfl

/-! ### `acceptCommand` -/

@[simp] theorem acceptCommand_cfg (p : Nat) (r : PortRegs) (w : Word) : (s.acceptCommand p r w).cfg = s.cfg := rfl
@[simp] theorem acceptCommand_ports (p : Nat) (r : PortRegs) (w : Word) : (s.acceptCommand p r w).ports = s.ports.set p { r with cmd := w } := rfl
@[simp] theorem acceptCommand_slots (p : Nat) (r : PortRegs) (w : Word) : (s.acceptCommand p r w).slots = s.slots := rfl
@[simp] theorem acceptCommand_tables (p : Nat) (r : PortRegs) (w : Word) : (s.acceptCommand p r w).tables = s.tables := rfl
@[simp] theorem acceptCommand_tbuilds (p : Nat) (r : PortRegs) (w : Word) : (s.acceptCommand p r w).tbuilds = s.tbuilds := rfl
@[simp] theorem acceptCommand_buf (p : Nat) (r : PortRegs) (w : Word) : (s.acceptCommand p r w).buf = s.buf := rfl
@[simp] theorem acceptCommand_epoch (p : Nat) (r : PortRegs) (w : Word) : (s.acceptCommand p r w).epoch = s.epoch := rfl
@[simp] theorem acceptCommand_issuer (p : Nat) (r : PortRegs) (w : Word) : (s.acceptCommand p r w).issuer = p := rfl
@[simp] theorem acceptCommand_script (p : Nat) (r : PortRegs) (w : Word) : (s.acceptCommand p r w).script = s.script := rfl
@[simp] theorem acceptCommand_replies (p : Nat) (r : PortRegs) (w : Word) : (s.acceptCommand p r w).replies = s.replies := rfl

/-! ### `withScript` -/

@[simp] theorem withScript_cfg (rest : List HostAction) : (s.withScript rest).cfg = s.cfg := rfl
@[simp] theorem withScript_ports (rest : List HostAction) : (s.withScript rest).ports = s.ports := rfl
@[simp] theorem withScript_slots (rest : List HostAction) : (s.withScript rest).slots = s.slots := rfl
@[simp] theorem withScript_tables (rest : List HostAction) : (s.withScript rest).tables = s.tables := rfl
@[simp] theorem withScript_tbuilds (rest : List HostAction) : (s.withScript rest).tbuilds = s.tbuilds := rfl
@[simp] theorem withScript_buf (rest : List HostAction) : (s.withScript rest).buf = s.buf := rfl
@[simp] theorem withScript_epoch (rest : List HostAction) : (s.withScript rest).epoch = s.epoch := rfl
@[simp] theorem withScript_issuer (rest : List HostAction) : (s.withScript rest).issuer = s.issuer := rfl
@[simp] theorem withScript_script (rest : List HostAction) : (s.withScript rest).script = rest := rfl
@[simp] theorem withScript_replies (rest : List HostAction) : (s.withScript rest).replies = s.replies := rfl

/-! ### `withStatus` -/

@[simp] theorem withStatus_cfg (r : PortRegs) (k : ResultCode) : (s.withStatus r k).cfg = s.cfg := rfl
@[simp] theorem withStatus_ports (r : PortRegs) (k : ResultCode) : (s.withStatus r k).ports = s.ports.set s.issuer { r with done := true, err := k } := rfl
@[simp] theorem withStatus_slots (r : PortRegs) (k : ResultCode) : (s.withStatus r k).slots = s.slots := rfl
@[simp] theorem withStatus_tables (r : PortRegs) (k : ResultCode) : (s.withStatus r k).tables = s.tables := rfl
@[simp] theorem withStatus_tbuilds (r : PortRegs) (k : ResultCode) : (s.withStatus r k).tbuilds = s.tbuilds := rfl
@[simp] theorem withStatus_buf (r : PortRegs) (k : ResultCode) : (s.withStatus r k).buf = s.buf := rfl
@[simp] theorem withStatus_epoch (r : PortRegs) (k : ResultCode) : (s.withStatus r k).epoch = s.epoch := rfl
@[simp] theorem withStatus_issuer (r : PortRegs) (k : ResultCode) : (s.withStatus r k).issuer = s.issuer := rfl
@[simp] theorem withStatus_script (r : PortRegs) (k : ResultCode) : (s.withStatus r k).script = s.script := rfl
@[simp] theorem withStatus_replies (r : PortRegs) (k : ResultCode) : (s.withStatus r k).replies = s.replies := rfl

/-! ### A result written in one port's registers -/

variable (r : PortRegs)

@[simp] theorem withResult_cmd (k : ResultCode) : (r.withResult k).cmd = r.cmd := rfl
@[simp] theorem withResult_src (k : ResultCode) : (r.withResult k).src = r.src := rfl
@[simp] theorem withResult_slen (k : ResultCode) : (r.withResult k).slen = r.slen := rfl
@[simp] theorem withResult_dst (k : ResultCode) : (r.withResult k).dst = r.dst := rfl
@[simp] theorem withResult_dlen (k : ResultCode) : (r.withResult k).dlen = r.dlen := rfl
@[simp] theorem withResult_done (k : ResultCode) : (r.withResult k).done = true := rfl
@[simp] theorem withResult_err (k : ResultCode) : (r.withResult k).err = k := rfl

/-! ### The state after reset -/

variable (cfg : Config) (e : Nat)

@[simp] theorem initial_cfg : (State.initial cfg e).cfg = cfg := rfl
@[simp] theorem initial_ports : (State.initial cfg e).ports = List.replicate cfg.nports PortRegs.zero := rfl
@[simp] theorem initial_slots : (State.initial cfg e).slots = List.replicate cfg.nctx none := rfl
@[simp] theorem initial_tables : (State.initial cfg e).tables = none := rfl
@[simp] theorem initial_tbuilds : (State.initial cfg e).tbuilds = 0 := rfl
@[simp] theorem initial_buf : (State.initial cfg e).buf = [] := rfl
@[simp] theorem initial_epoch : (State.initial cfg e).epoch = e := rfl
@[simp] theorem initial_issuer : (State.initial cfg e).issuer = 0 := rfl
@[simp] theorem initial_script : (State.initial cfg e).script = [] := rfl
@[simp] theorem initial_replies : (State.initial cfg e).replies = [] := rfl

@[simp] theorem resetCore_cfg : (resetCore s).cfg = s.cfg := rfl
@[simp] theorem resetCore_ports : (resetCore s).ports = List.replicate s.cfg.nports PortRegs.zero := rfl
@[simp] theorem resetCore_slots : (resetCore s).slots = List.replicate s.cfg.nctx none := rfl
@[simp] theorem resetCore_tables : (resetCore s).tables = none := rfl
@[simp] theorem resetCore_tbuilds : (resetCore s).tbuilds = 0 := rfl
@[simp] theorem resetCore_buf : (resetCore s).buf = [] := rfl
@[simp] theorem resetCore_epoch : (resetCore s).epoch = s.epoch + 1 := rfl
@[simp] theorem resetCore_issuer : (resetCore s).issuer = 0 := rfl
@[simp] theorem resetCore_script : (resetCore s).script = s.script := rfl
@[simp] theorem resetCore_replies : (resetCore s).replies = s.replies := rfl

/-! ### Views that an update leaves alone -/

theorem trdy_congr {s t : State} (h : t.tables = s.tables) : t.trdy = s.trdy := by simp [State.trdy, h]

theorem context_congr {s t : State} (hc : t.cfg = s.cfg) (hs : t.slots = s.slots) (c : Nat) :
    t.context c = s.context c := by simp [State.context, hc, hs]

theorem bufByte_congr {s t : State} (hb : t.buf = s.buf) (he : t.epoch = s.epoch) (a : Nat) :
    t.bufByte a = s.bufByte a := by simp [State.bufByte, hb, he]

theorem memRead_congr {s t : State} (hb : t.buf = s.buf) (he : t.epoch = s.epoch) (a n : Nat) :
    t.memRead a n = s.memRead a n := by simp [State.memRead, bufByte_congr hb he]

end Sys2Proof.Machine
end

