-- ==== Sys2Proof/Laws/Memory.lean ====
section
/-! SUPPORT. The laws of `BUF`: a read after a write, what a write leaves alone, and that every write keeps the canonical
form. -/

namespace Sys2Proof.Machine

/-! ## One byte -/

theorem lookup_insert (m : Memory) (a : Nat) (b : Byte) (x : Nat) (hm : m.wf) :
    (m.insert a b).lookup x = if x = a then some b else m.lookup x := by
  induction m with
  | nil => simp only [Memory.insert, Memory.lookup]; grind
  | cons c m ih =>
    obtain ⟨k, y⟩ := c
    have hm' : Memory.wf m := (List.pairwise_cons.1 hm).2
    simp only [Memory.insert]
    split
    · simp only [Memory.lookup]; grind
    · split
      · simp only [Memory.lookup]; grind
      · simp only [Memory.lookup, ih hm']; grind

theorem mem_insert {m : Memory} {a : Nat} {b : Byte} {x : Host.Cell} (h : x ∈ m.insert a b) :
    x = (a, b) ∨ x ∈ m := by
  induction m with
  | nil => simpa [Memory.insert] using h
  | cons c m ih =>
    obtain ⟨k, y⟩ := c
    simp only [Memory.insert] at h
    split at h
    · simpa using h
    · split at h
      · rcases List.mem_cons.1 h with h | h <;> simp [h]
      · rcases List.mem_cons.1 h with h | h
        · simp [h]
        · rcases ih h with h | h <;> simp [h]

theorem insert_wf (m : Memory) (a : Nat) (b : Byte) (hm : m.wf) : (m.insert a b).wf := by
  induction m with
  | nil => simp [Memory.insert]
  | cons c m ih =>
    obtain ⟨k, y⟩ := c
    obtain ⟨hk, hm'⟩ := List.pairwise_cons.1 hm
    simp only [Memory.insert]
    split
    · refine List.pairwise_cons.2 ⟨fun x hx => ?_, hm⟩
      rcases List.mem_cons.1 hx with rfl | hx
      · assumption
      · exact Nat.lt_trans ‹_› (hk x hx)
    · split
      · subst_vars
        exact List.pairwise_cons.2 ⟨hk, hm'⟩
      · refine List.pairwise_cons.2 ⟨fun x hx => ?_, ih hm'⟩
        rcases mem_insert hx with rfl | hx
        · show k < a
          omega
        · exact hk x hx

/-! ## A string of bytes -/

theorem insertBytes_wf (m : Memory) (a : Nat) (v : List Byte) (hm : m.wf) : (m.insertBytes a v).wf := by
  induction v generalizing m a with
  | nil => exact hm
  | cons b v ih => exact ih _ _ (insert_wf m a b hm)

theorem mem_insertBytes {m : Memory} {a : Nat} {v : List Byte} {x : Host.Cell} (h : x ∈ m.insertBytes a v) :
    x ∈ m ∨ a ≤ x.1 ∧ x.1 < a + v.length := by
  induction v generalizing m a with
  | nil => exact .inl h
  | cons b v ih =>
    rcases ih h with h | h
    · rcases mem_insert h with rfl | h
      · right; simp
      · exact .inl h
    · right; simp only [List.length_cons]; omega

theorem lookup_insertBytes (m : Memory) (a : Nat) (v : List Byte) (x : Nat) (hm : m.wf) :
    (m.insertBytes a v).lookup x = if a ≤ x ∧ x < a + v.length then v[x - a]? else m.lookup x := by
  induction v generalizing m a with
  | nil => simp [Memory.insertBytes]
  | cons b v ih =>
    rw [Memory.insertBytes, ih _ _ (insert_wf m a b hm), lookup_insert m a b x hm]
    simp only [List.length_cons]
    by_cases h : x = a
    · subst h; simp
    · by_cases h1 : a + 1 ≤ x ∧ x < a + 1 + v.length
      · have : x - a = x - (a + 1) + 1 := by omega
        rw [if_pos h1, if_pos (by omega), this, List.getElem?_cons_succ]
      · rw [if_neg h1, if_neg h, if_neg (by omega)]

/-- `BUF` after reset has the canonical form: nothing is listed. -/
theorem reset_buf_wf : State.reset.buf.wf := List.Pairwise.nil

/-! ## `MemRead` and `MemWrite` -/

@[simp] theorem length_memRead (s : State) (a n : Nat) : (s.memRead a n).length = n := by simp [State.memRead]

theorem getElem_memRead (s : State) (a n i : Nat) (h : i < n) :
    (s.memRead a n)[i]'(by simpa using h) = s.bufByte (a + i) := by simp [State.memRead]

/-- A byte of `BUF` after `MemWrite`: the string inside its range, as before outside it. -/
theorem bufByte_memWrite (s : State) (a : Nat) (v : List Byte) (x : Nat) (hm : s.buf.wf) :
    (s.memWrite a v).bufByte x = if h : a ≤ x ∧ x < a + v.length then v[x - a]'(by omega) else s.bufByte x := by
  simp only [State.bufByte, memWrite_buf, memWrite_epoch, lookup_insertBytes _ _ _ _ hm]
  split
  · rename_i h
    rw [List.getElem?_eq_getElem (by omega)]; rfl
  · rfl

theorem bufByte_memWrite_outside (s : State) (a : Nat) (v : List Byte) (x : Nat) (hm : s.buf.wf)
    (h : x < a ∨ a + v.length ≤ x) : (s.memWrite a v).bufByte x = s.bufByte x := by
  rw [bufByte_memWrite s a v x hm, dif_neg (by omega)]

/-- A range that lies inside the string just written reads as that part of the string. -/
theorem memRead_memWrite_inside (s : State) (a : Nat) (v : List Byte) (k n : Nat) (hm : s.buf.wf)
    (h : k + n ≤ v.length) : (s.memWrite a v).memRead (a + k) n = (v.drop k).take n := by
  apply List.ext_getElem
  · simp; omega
  · intro i h1 h2
    have hi : i < n := by simpa using h1
    rw [getElem_memRead _ _ _ _ hi, bufByte_memWrite s a v _ hm, dif_pos (by omega)]
    simp only [List.getElem_take, List.getElem_drop]
    congr 1
    omega

end Sys2Proof.Machine
end

