-- ==== Sys2Proof/Laws/Ops.lean ====
section
/-! SUPPORT. One lemma per shared operation that says once everything it can do: the error report, the table guard, the checks
of a command, `KEYEXP` and `ExecCrypt`. -/

namespace Sys2Proof.Machine

/-! ## The report of a result -/

/-- A report overwrites `STATUS` of the issuing port and nothing else. -/
theorem report_eq_withStatus {s : State} {r : PortRegs} (h : s.issuingPort = some r) (k : ResultCode) :
    s.report k = s.withStatus r k := by
  have hp : s.ports[s.issuer]? = some r := h
  simp only [State.report, State.withStatus, List.modify_eq_set_getElem?, hp]
  rfl

/-- The issuing port is found when its number is that of a port. -/
theorem issuingPort_of_inv {s : State} (hs : s.Inv) : ∃ r, s.issuingPort = some r :=
  ⟨_, List.getElem?_eq_getElem (by rw [hs.portCount]; exact hs.issuerIsPort)⟩

theorem issuingPort_withStatus {s : State} {r : PortRegs} (h : s.issuingPort = some r) (k : ResultCode) :
    (s.withStatus r k).issuingPort = some { r with done := true, err := k } := by
  have hlt : s.issuer < s.ports.length := (List.getElem?_eq_some_iff.1 h).1
  simp [State.issuingPort, hlt]

/-! ## The init-once guard -/

/-- Where the tables, if built, are the right ones, the guard answers the right tables and leaves them built. -/
theorem ensureTables_eq {s : State} (hT : ∀ t, s.tables = some t → t = builtTables) :
    ensureTables s = (builtTables, { s with
      tables := some builtTables, tbuilds := if s.trdy then s.tbuilds else s.tbuilds + 1 }) := by
  obtain ⟨cfg, ports, slots, tables, tbuilds, buf, epoch, issuer, script, replies⟩ := s
  cases tables with
  | none => simp [ensureTables, State.trdy]
  | some t => obtain rfl := hT t rfl; simp [ensureTables, State.trdy]

/-- What the guard leaves alone, in every state. -/
theorem ensureTables_frame (s : State) :
    (ensureTables s).2 = { s with tables := (ensureTables s).2.tables, tbuilds := (ensureTables s).2.tbuilds } := by
  obtain ⟨cfg, ports, slots, tables, tbuilds, buf, epoch, issuer, script, replies⟩ := s
  cases tables <;> rfl

/-- Step 3 of `ExecCrypt` where the tables, if built, are the right ones. -/
theorem prepareTransform_eq (eng : Engine) {s : State} (hT : ∀ t, s.tables = some t → t = builtTables) :
    prepareTransform eng s =
      if usesTables s.cfg eng then
        (tDataTab builtTables, { s with
          tables := some builtTables, tbuilds := if s.trdy then s.tbuilds else s.tbuilds + 1 })
      else (tData, s) := by
  simp only [prepareTransform, ensureTables_eq hT]

/-- What step 3 leaves alone, in every state. -/
theorem prepareTransform_frame (eng : Engine) (s : State) :
    (prepareTransform eng s).2 = { s with
      tables := (prepareTransform eng s).2.tables, tbuilds := (prepareTransform eng s).2.tbuilds } := by
  unfold prepareTransform
  split
  · exact ensureTables_frame s
  · rfl

/-! ## The checks of a crypt command -/

theorem inRange_iff (cfg : Config) (a n : Nat) : inRange cfg a n = true ↔ n = 0 ∨ a + n ≤ cfg.bufBytes := by
  simp [inRange]

theorem lengthsOk_iff (arity : Arity) (o : BufferOperands) : lengthsOk arity o = true ↔ o.GoodLengths arity := by
  cases arity <;> simp [lengthsOk, BufferOperands.GoodLengths]

theorem buffersOk_iff (o : BufferOperands) :
    buffersOk o = true ↔ o.slen = 0 ∨ o.src = o.dst ∨ o.src + o.slen ≤ o.dst ∨ o.dst + o.dlen ≤ o.src := by
  simp [buffersOk, or_assoc]

/-- Exactly when the checks of a crypt command pass, and with which round keys. -/
theorem cryptCheck_ok_iff (arity : Arity) (dp sp : Bool) (c : Nat) (o : BufferOperands) (s : State) (rk : RoundKeys) :
    cryptCheck arity dp sp c o s = .ok rk ↔
      sp = true ∧ dp = true ∧ s.context c = some rk ∧ o.GoodLengths arity ∧ o.Good s.cfg := by
  unfold cryptCheck
  rw [← lengthsOk_iff, BufferOperands.Good, ← inRange_iff, ← inRange_iff, ← buffersOk_iff]
  cases sp <;> cases dp <;> simp only [Bool.and_true, Bool.and_false, Bool.not_false, Bool.not_true, if_true, if_false,
    Bool.false_eq_true, reduceCtorEq, false_and, and_false, true_and]
  cases s.context c with
  | none => simp
  | some k => cases lengthsOk arity o <;> cases inRange s.cfg o.src o.slen <;> cases inRange s.cfg o.dst o.dlen <;>
      cases buffersOk o <;> simp

/-- A failing check of a crypt command gives `InvalidArgument` (R207, R210). -/
theorem cryptCheck_error {arity : Arity} {dp sp : Bool} {c : Nat} {o : BufferOperands} {s : State} {e : CommandError}
    (h : cryptCheck arity dp sp c o s = .error e) : e = .invalidArgument := by
  unfold cryptCheck at h
  repeat' split at h
  all_goals simp_all

/-! ## `KEYEXP` -/

/-- Everything `KEYEXP` can do when it answers a next state: it reports an error, or it loads the slot. -/
theorem execKeyexp_cases {sp : Bool} {c : Nat} {s t : State} (h : execKeyexp sp c s = .next t) :
    ∃ r, s.issuingPort = some r ∧
      ((∃ e, keyexpError sp c r.operands s.cfg = some e ∧ t = s.withStatus r e.code) ∨
       (keyexpError sp c r.operands s.cfg = none ∧
        t = (s.setSlot c (expandKey (s.memRead r.operands.src 16))).withStatus r .ok)) := by
  unfold execKeyexp at h
  split at h
  · cases h
  · rename_i r hr
    refine ⟨r, hr, ?_⟩
    split at h
    · rename_i e he
      exact .inl ⟨e, he, by injection h with h; rw [← h, report_eq_withStatus hr]⟩
    · rename_i he
      refine .inr ⟨he, ?_⟩
      injection h with h
      rw [← h, report_eq_withStatus]
      exact hr

/-- The checks of `KEYEXP`, each with the ones before it passed (R210). -/
theorem keyexpError_eq_none_iff (sp : Bool) (c : Nat) (o : BufferOperands) (cfg : Config) :
    keyexpError sp c o cfg = none ↔ sp = true ∧ o.slen = 16 ∧ c < cfg.nctx ∧ o.src + 16 ≤ cfg.bufBytes := by
  unfold keyexpError inRange
  cases sp <;> simp
  repeat' split
  all_goals simp_all

/-! ## `ExecCrypt` -/

/-- What the buffers' part of a crypt command leaves alone: everything but `BUF`, and `T` and `TRDY`. -/
theorem cryptBuffers_frame (eng : Engine) (dir : Direction) (rk : RoundKeys) (o : BufferOperands) (s : State) :
    cryptBuffers eng dir rk o s = { s with
      tables := (prepareTransform eng s).2.tables
      tbuilds := (prepareTransform eng s).2.tbuilds
      buf := s.buf.insertBytes o.dst (cryptBlocks eng (prepareTransform eng s).1 s.cfg.lanes rk dir
        (splitBlocks o.blockCount (s.memRead o.src (16 * o.blockCount)))).flatten } := by
  have hf := prepareTransform_frame eng s
  simp only [cryptBuffers, State.memWrite]
  generalize (prepareTransform eng s).2 = s' at hf ⊢
  rw [hf]
  rfl

/-- Everything a crypt command can do when it answers a next state: it reports `InvalidArgument`, or it is an empty batch, or
it writes the destination. -/
theorem execCrypt_cases {eng : Engine} {dir : Direction} {arity : Arity} {dp sp : Bool} {c : Nat} {s t : State}
    (h : execCrypt eng dir arity dp sp c s = .next t) :
    ∃ r, s.issuingPort = some r ∧
      ((cryptCheck arity dp sp c r.operands s = .error .invalidArgument ∧ t = s.withStatus r .invalidArgument) ∨
       ∃ rk, cryptCheck arity dp sp c r.operands s = .ok rk ∧
        ((r.operands.blockCount = 0 ∧ t = s.withStatus r .ok) ∨
         (r.operands.blockCount ≠ 0 ∧ t = (cryptBuffers eng dir rk r.operands s).withStatus r .ok))) := by
  unfold execCrypt at h
  split at h
  · cases h
  · rename_i r hr
    refine ⟨r, hr, ?_⟩
    split at h
    · rename_i e he
      obtain rfl := cryptCheck_error he
      exact .inl ⟨he, by injection h with h; rw [← h, report_eq_withStatus hr]; rfl⟩
    · rename_i rk hrk
      refine .inr ⟨rk, hrk, ?_⟩
      split at h
      · rename_i hn
        exact .inl ⟨hn, by injection h with h; rw [← h, report_eq_withStatus hr]⟩
      · rename_i hn
        refine .inr ⟨hn, ?_⟩
        injection h with h
        rw [← h, report_eq_withStatus]
        rw [cryptBuffers_frame]
        exact hr

/-! ## Blocks of a byte string -/

@[simp] theorem splitBlocks_length (n : Nat) (v : List Byte) : (splitBlocks n v).length = n := by
  induction n generalizing v with
  | zero => rfl
  | succ n ih => simp [splitBlocks, ih]

theorem splitBlocks_getElem (n : Nat) (v : List Byte) (b : Nat) (h : b < n) :
    (splitBlocks n v)[b]'(by simpa using h) = (v.drop (16 * b)).take 16 := by
  induction n generalizing v b with
  | zero => omega
  | succ n ih =>
    cases b with
    | zero => simp [splitBlocks]
    | succ b =>
      simp only [splitBlocks, List.getElem_cons_succ]
      rw [ih _ _ (by omega), List.drop_drop]
      congr 2
      omega

@[simp] theorem storeBlock_length (y : Quad) : (storeBlock y).length = 16 := rfl

@[simp] theorem cryptBlock_length (td : Word → Word) (rk : RoundKeys) (dir : Direction) (blk : List Byte) :
    (cryptBlock td rk dir blk).length = 16 := rfl

end Sys2Proof.Machine
end

