-- ==== Sys2Proof/Laws/Step.lean ====
section
/-! SUPPORT. What one step can do: the pending action, and each action by its own lemma. -/

namespace Sys2Proof.Machine

/-! ## The commands by their two shared procedures -/

/-- A crypt command is `ExecCrypt` with its engine, direction and arity (R152, R153, R192, R193). -/
theorem exec_cryptInstr (arity : Arity) (dir : Direction) (eng : Engine) (dp sp : Bool) (c : Nat) (s : State) :
    exec (cryptInstr arity dir eng dp sp c) s = execCrypt eng dir arity dp sp c s := by
  cases arity <;> cases dir <;> cases eng <;> rfl

/-- Every command is `KEYEXP` or a crypt command. -/
theorem instr_cases (i : Instr) :
    (∃ sp c, i = .keyexp sp c) ∨ ∃ arity dir eng dp sp c, i = cryptInstr arity dir eng dp sp c := by
  cases i with
  | keyexp sp c => exact .inl ⟨sp, c, rfl⟩
  | enc1Ref dp sp c => exact .inr ⟨.single, .enc, .ref, dp, sp, c, rfl⟩
  | enc1Tab dp sp c => exact .inr ⟨.single, .enc, .tab, dp, sp, c, rfl⟩
  | enc1Bat dp sp c => exact .inr ⟨.single, .enc, .bat, dp, sp, c, rfl⟩
  | dec1Ref dp sp c => exact .inr ⟨.single, .dec, .ref, dp, sp, c, rfl⟩
  | dec1Tab dp sp c => exact .inr ⟨.single, .dec, .tab, dp, sp, c, rfl⟩
  | dec1Bat dp sp c => exact .inr ⟨.single, .dec, .bat, dp, sp, c, rfl⟩
  | encnRef dp sp c => exact .inr ⟨.batch, .enc, .ref, dp, sp, c, rfl⟩
  | encnTab dp sp c => exact .inr ⟨.batch, .enc, .tab, dp, sp, c, rfl⟩
  | encnBat dp sp c => exact .inr ⟨.batch, .enc, .bat, dp, sp, c, rfl⟩
  | decnRef dp sp c => exact .inr ⟨.batch, .dec, .ref, dp, sp, c, rfl⟩
  | decnTab dp sp c => exact .inr ⟨.batch, .dec, .tab, dp, sp, c, rfl⟩
  | decnBat dp sp c => exact .inr ⟨.batch, .dec, .bat, dp, sp, c, rfl⟩

/-! ## One step -/

/-- A step is the first pending action, or nothing. -/
theorem step_cases {s t : State} (h : step s = .next t) :
    (s.script = [] ∧ t = s) ∨ ∃ a rest, s.script = a :: rest ∧ perform a (s.withScript rest) = .next t := by
  unfold step at h
  split at h
  · rename_i hs
    exact .inl ⟨hs, by injection h with h; exact h.symm⟩
  · rename_i a rest hs
    exact .inr ⟨a, rest, hs, h⟩

theorem step_eq_perform {s : State} {a : HostAction} {rest : List HostAction} (h : s.script = a :: rest) :
    step s = perform a (s.withScript rest) := by
  unfold step; rw [h]

/-- Everything a `CMD` write can do: it reports `IllegalCommand`, or it runs the decoded command. -/
theorem regWrite_zero {s : State} {p : Nat} {r : PortRegs} (w : Word) (hp : s.ports[p]? = some r) :
    regWrite p 0 w s = runCommand w (s.acceptCommand p r w) := by
  simp [regWrite, hp]

/-- A write to any other register number changes that port's registers only. -/
theorem regWrite_other {s : State} {p : Nat} {r : PortRegs} {n : Fin 256} (w : Word) (hn : n ≠ 0)
    (hp : s.ports[p]? = some r) : regWrite p n w s = .next (s.setPort p (r.writeRegister n w)) := by
  have : n.val ≠ 0 := fun h => hn (Fin.ext h)
  simp [regWrite, hp, this]

/-- Everything a host action can do when it answers a next state. -/
theorem perform_cases {a : HostAction} {s t : State} (h : perform a s = .next t) :
    (∃ p w r, a = .regWrite p 0 w ∧ s.ports[p]? = some r ∧ runCommand w (s.acceptCommand p r w) = .next t) ∨
    (∃ p n w r, a = .regWrite p n w ∧ n ≠ 0 ∧ s.ports[p]? = some r ∧ t = s.setPort p (r.writeRegister n w)) ∨
    (∃ p n r, a = .regRead p n ∧ s.ports[p]? = some r ∧ t = s.reply (.reg p n (readRegister s r n))) ∨
    (∃ x b, a = .bufWrite x b ∧ x < s.cfg.bufBytes ∧ t = s.memWrite x [b]) ∨
    (∃ x, a = .bufRead x ∧ x < s.cfg.bufBytes ∧ t = s.reply (.buf x (s.bufByte x))) ∨
    (a = .reset ∧ t = resetCore s) := by
  cases a with
  | regWrite p n w =>
    simp only [perform] at h
    by_cases hn : n = 0
    · subst hn
      cases hp : s.ports[p]? with
      | none => simp [regWrite, hp] at h
      | some r => exact .inl ⟨p, w, r, rfl, hp, by rw [← regWrite_zero w hp]; exact h⟩
    · cases hp : s.ports[p]? with
      | none => simp [regWrite, hp] at h
      | some r =>
        rw [regWrite_other w hn hp] at h
        exact .inr (.inl ⟨p, n, w, r, rfl, hn, hp, by injection h with h; exact h.symm⟩)
  | regRead p n =>
    cases hp : s.ports[p]? with
    | none => simp [perform, regRead, hp] at h
    | some r =>
      simp only [perform, regRead, hp] at h
      exact .inr (.inr (.inl ⟨p, n, r, rfl, hp, by injection h with h; exact h.symm⟩))
  | bufWrite x b =>
    simp only [perform, bufWrite] at h
    split at h
    · exact .inr (.inr (.inr (.inl ⟨x, b, rfl, ‹_›, by injection h with h; exact h.symm⟩)))
    · cases h
  | bufRead x =>
    simp only [perform, bufRead] at h
    split at h
    · exact .inr (.inr (.inr (.inr (.inl ⟨x, rfl, ‹_›, by injection h with h; exact h.symm⟩))))
    · cases h
  | reset =>
    exact .inr (.inr (.inr (.inr (.inr ⟨rfl, by simp only [perform] at h; injection h with h; exact h.symm⟩))))

/-- A run of one more step. -/
theorem run_succ (n : Nat) {s t : State} (h : step s = .next t) :
    Sys2Proof.core.run (n + 1) s = Sys2Proof.core.run n t := by
  have h' : Sys2Proof.core.step s = .next t := h
  simp only [Host.Core.run, h']

end Sys2Proof.Machine
end

