-- ==== Sys2Proof/Certificates/Slice0/Obligations.lean ====
section
/-! DEFINITION. The statements for the provers, from the numbered rules of `spec/`. -/

open Sys2Proof Sys2Proof.Machine

/-! ## Encoding -/

/-- R80, R89: no bit of a command word is dropped: decoding the word of a well-formed command gives that command. -/
def Obligations.DecodeOfEncode : Prop :=
  ∀ i : Instr, i.WellFormed → decode (encode i) = .ok i

/-- R80, R87, R89: a word that decodes is the word of the command it decodes to, and that command is well formed. -/
def Obligations.EncodeOfDecode : Prop :=
  ∀ (w : Word) (i : Instr), decode w = .ok i → i.WellFormed ∧ encode i = w

/-- R89: the decoder and the table of match and mask agree; the rows are disjoint; a word of no row is illegal. -/
def Obligations.DecodeAgreesWithOpcodeTable : Prop :=
  (∀ w : Word, ∀ row ∈ opcodeRows, row.matchesWord w ↔ ∃ i, decode w = .ok i ∧ i.mnemonic = row.mnemonic) ∧
  (∀ w : Word, ∀ row ∈ opcodeRows, ∀ row' ∈ opcodeRows, row.matchesWord w → row'.matchesWord w → row = row') ∧
  (∀ w : Word, (∀ row ∈ opcodeRows, ¬ row.matchesWord w) → ∃ e, decode w = .error e)

/-- R87: decoding field by field, total on every word, and what an illegal word does when it is executed: it changes `CMD[p]` and
`STATUS[p]` and nothing else of the core (`script` and `issuer` are the model's own: log 2, log 4). -/
def Obligations.DecodeByFields : Prop :=
  (∀ w : Word,
    let rsv1 := w.extractLsb' 18 14
    let rsv0 := w.extractLsb' 6 2
    let op := (w.extractLsb' 0 4).toNat
    let eng := (w.extractLsb' 4 2).toNat
    let dp := w.getLsbD 17
    let sp := w.getLsbD 16
    let c := (w.extractLsb' 8 8).toNat
    let legal := rsv1 = 0 ∧ rsv0 = 0
    ((∃ e, decode w = .error e) ↔
      rsv1 ≠ 0 ∨ rsv0 ≠ 0 ∨ (op = 0 ∨ 6 ≤ op) ∨ (op = 1 ∧ (eng ≠ 0 ∨ dp = true)) ∨ (op ≠ 1 ∧ eng = 3)) ∧
    (legal ∧ op = 1 ∧ eng = 0 ∧ dp = false → decode w = .ok (.keyexp sp c)) ∧
    (legal ∧ op = 2 ∧ eng = 0 → decode w = .ok (.enc1Ref dp sp c)) ∧
    (legal ∧ op = 2 ∧ eng = 1 → decode w = .ok (.enc1Tab dp sp c)) ∧
    (legal ∧ op = 2 ∧ eng = 2 → decode w = .ok (.enc1Bat dp sp c)) ∧
    (legal ∧ op = 3 ∧ eng = 0 → decode w = .ok (.dec1Ref dp sp c)) ∧
    (legal ∧ op = 3 ∧ eng = 1 → decode w = .ok (.dec1Tab dp sp c)) ∧
    (legal ∧ op = 3 ∧ eng = 2 → decode w = .ok (.dec1Bat dp sp c)) ∧
    (legal ∧ op = 4 ∧ eng = 0 → decode w = .ok (.encnRef dp sp c)) ∧
    (legal ∧ op = 4 ∧ eng = 1 → decode w = .ok (.encnTab dp sp c)) ∧
    (legal ∧ op = 4 ∧ eng = 2 → decode w = .ok (.encnBat dp sp c)) ∧
    (legal ∧ op = 5 ∧ eng = 0 → decode w = .ok (.decnRef dp sp c)) ∧
    (legal ∧ op = 5 ∧ eng = 1 → decode w = .ok (.decnTab dp sp c)) ∧
    (legal ∧ op = 5 ∧ eng = 2 → decode w = .ok (.decnBat dp sp c))) ∧
  (∀ (s : State) (p : Nat) (r : PortRegs) (w : Word) (rest : List HostAction) (e : Illegal),
    s.script = .regWrite p 0 w :: rest → s.ports[p]? = some r → decode w = .error e →
    step s = .next { s with
      script := rest
      issuer := p
      ports := s.ports.set p { r with cmd := w, done := true, err := .illegalCommand } })

/-- V9 (R80, R89): words written out from the field table of R80, one or more of each command family, and illegal ones. -/
def Obligations.SampleWordsDecode : Prop :=
  decode 0x00010001 = .ok (.keyexp true 0) ∧ decode 0x0001ff01 = .ok (.keyexp true 255) ∧
  decode 0x00030002 = .ok (.enc1Ref true true 0) ∧ decode 0x00010112 = .ok (.enc1Tab false true 1) ∧
  decode 0x00030022 = .ok (.enc1Bat true true 0) ∧ decode 0x00030013 = .ok (.dec1Tab true true 0) ∧
  decode 0x00030024 = .ok (.encnBat true true 0) ∧ decode 0x00030005 = .ok (.decnRef true true 0) ∧
  decode 0x00030125 = .ok (.decnBat true true 1) ∧
  (decode 0x00000000).toOption = none ∧ (decode 0x00030006).toOption = none ∧ (decode 0x00030032).toOption = none ∧
  (decode 0x00010011).toOption = none ∧ (decode 0x00030001).toOption = none ∧ (decode 0x80030002).toOption = none

/-- R24: a `CMD` write stores the word and executes it: when the word decodes to `i`, the step is `exec i` in the state with
the action taken off the script, the word in `CMD[p]` and `p` the issuer. The last two fields, `script` and `issuer`, are
the model's own (log 2, log 4). -/
def Obligations.StepRunsDecodedCommand : Prop :=
  ∀ (s : State) (p : Nat) (r : PortRegs) (w : Word) (i : Instr) (rest : List HostAction),
    s.script = .regWrite p 0 w :: rest → s.ports[p]? = some r → decode w = .ok i →
    step s = exec i { s with script := rest, issuer := p, ports := s.ports.set p { r with cmd := w } }

/-- R92: the command words that the mnemonics' expansions write decode to those commands, presence bits included. -/
def Obligations.MnemonicWordsDecode : Prop :=
  ∀ (c : Nat), c ≤ 255 →
    (∀ key, decode (keyexpWord c key) = .ok (.keyexp key.isSome c)) ∧
    (∀ arity dir eng src dst,
      decode (cryptWord arity dir eng c src dst) = .ok (cryptInstr arity dir eng dst.isSome src.isSome c))

/-! ## Primitive units -/

/-- R110: the byte lanes of a word, most significant first, and the word put together from them again. -/
def Obligations.ByteLanesRecompose : Prop :=
  (∀ w : Word, byteLane 0 w = w.extractLsb' 24 8 ∧ byteLane 1 w = w.extractLsb' 16 8 ∧
    byteLane 2 w = w.extractLsb' 8 8 ∧ byteLane 3 w = w.extractLsb' 0 8) ∧
  (∀ (k l : Fin 4) (b : Byte), byteLane l (placeLane k b) = if l = k then b else 0) ∧
  (∀ w : Word, w = placeLane 0 (byteLane 0 w) ^^^ placeLane 1 (byteLane 1 w) ^^^ placeLane 2 (byteLane 2 w) ^^^
    placeLane 3 (byteLane 3 w)) ∧
  byteLane 0 0x01234567 = 0x01 ∧ byteLane 3 0x01234567 = 0x67 ∧ placeLane 1 0xAB = 0x00AB0000

/-- R112: `Sub` puts the S-box output of each byte lane in that lane; its corner cases. -/
def Obligations.SubActsPerByteLane : Prop :=
  (∀ w : Word, sub w = placeLane 0 (sbox (byteLane 0 w)) ^^^ placeLane 1 (sbox (byteLane 1 w)) ^^^
    placeLane 2 (sbox (byteLane 2 w)) ^^^ placeLane 3 (sbox (byteLane 3 w))) ∧
  (∀ (w : Word) (k : Fin 4), byteLane k (sub w) = sbox (byteLane k w)) ∧
  sub 0x00000000 = 0xd6d6d6d6 ∧ sub 0xffffffff = 0x48484848 ∧ (∀ b : Byte, sbox b = b ↔ b = 0xab) ∧
  sub 0xabababab = 0xabababab ∧ sub 0x00010203 = 0xd690e9fe

/-- R113: bit `i` of `w` moves to bit `(i + n) mod 32`, for every amount 1 to 31; the corner cases. -/
def Obligations.RotationMovesBits : Prop :=
  (∀ (w : Word) (n : Fin 32) (i : Nat), 1 ≤ n.val → i < 32 → (rotl w n).getLsbD ((i + n.val) % 32) = w.getLsbD i) ∧
  (∀ n : Fin 32, 1 ≤ n.val → rotl 0 n = 0 ∧ rotl 0xffffffff n = 0xffffffff) ∧
  rotl 0x80000001 1 = 0x00000003 ∧ rotl 0x80000001 31 = 0xc0000000 ∧ rotl 0x12345678 8 = 0x34567812

/-- R114 to R117: the linear maps and the composite transforms at the corner cases the rules give. -/
def Obligations.TransformCornerCases : Prop :=
  lData 0 = 0 ∧ lData 0xffffffff = 0xffffffff ∧ lData 0x00000001 = 0x01040405 ∧ lData 0x80000000 = 0x80820202 ∧
  lData 0x00010203 = 0x0f010709 ∧
  lKey 0 = 0 ∧ lKey 0xffffffff = 0xffffffff ∧ lKey 0x00000001 = 0x00802001 ∧ lKey 0x80000000 = 0x80401000 ∧
  lKey 0x00010203 = 0x21c16282 ∧
  tData 0 = 0x5b5b5b5b ∧ tData 0xffffffff = 0x21212121 ∧ tData 0x71717171 = 0 ∧ tData 0x00010203 = 0x96597ff5 ∧
  tKey 0 = 0x67676767 ∧ tKey 0xffffffff = 0x65656565 ∧ tKey 0x71717171 = 0 ∧ tKey 0x00010203 = 0x34c47b58

/-- R119: the laws of the datapath over XOR and rotation, for all words and all amounts 1 to 31. -/
def Obligations.DiffusionLaws : Prop :=
  (∀ a b : Word, lData (a ^^^ b) = lData a ^^^ lData b ∧ lKey (a ^^^ b) = lKey a ^^^ lKey b) ∧
  (∀ (a b : Word) (n : Fin 32), 1 ≤ n.val → rotl (a ^^^ b) n = rotl a n ^^^ rotl b n) ∧
  (∀ (a : Word) (n m : Fin 32), 1 ≤ n.val → 1 ≤ m.val →
    rotl (rotl a n) m = if (n.val + m.val) % 32 = 0 then a else rotl a (n + m)) ∧
  (∀ (a : Word) (n : Fin 32), 1 ≤ n.val → lData (rotl a n) = rotl (lData a) n ∧ lKey (rotl a n) = rotl (lKey a) n)

/-- R120: the S-box is a permutation of the bytes, so `Sub` is a bijection on words. -/
def Obligations.SubIsBijection : Prop :=
  Function.Bijective sbox ∧ Function.Bijective sub

/-- R131: the round constants equal their generating formula at all 128 bytes. -/
def Obligations.RoundConstantFormula : Prop :=
  ∀ (i : Fin 32) (j : Fin 4), byteLane j ck[i] = BitVec.ofNat 8 ((7 * (4 * i.val + j.val)) % 256)

/-- R54: big-endian blocks: byte `4j + k` of the string is byte lane `k` of word `j`, and storing undoes loading. -/
def Obligations.BlockByteOrder : Prop :=
  (∀ s : List Byte, s.length = 16 →
    storeBlock (loadBlock s) = s ∧
    ∀ k : Fin 4, s[k.val]? = some (byteLane k (loadBlock s).x0) ∧ s[4 + k.val]? = some (byteLane k (loadBlock s).x1) ∧
      s[8 + k.val]? = some (byteLane k (loadBlock s).x2) ∧ s[12 + k.val]? = some (byteLane k (loadBlock s).x3)) ∧
  (∀ y : Quad, (storeBlock y).length = 16 ∧ loadBlock (storeBlock y) = y)

/-! ## Key schedule and round engine -/

/-- R132: the 32 subkeys are `K[4]` to `K[35]` of the recurrence that starts from the big-endian key words XORed with `FK`. -/
def Obligations.KeyScheduleRecurrence : Prop :=
  ∀ key : List Byte, key.length = 16 → ∃ K : Nat → Word,
    (∀ j : Fin 4, K j.val = be32 (key.getD (4 * j.val) 0) (key.getD (4 * j.val + 1) 0) (key.getD (4 * j.val + 2) 0)
      (key.getD (4 * j.val + 3) 0) ^^^ fk[j]) ∧
    (∀ i : Fin 32, K (i.val + 4) = K i.val ^^^ tKey (K (i.val + 1) ^^^ K (i.val + 2) ^^^ K (i.val + 3) ^^^ ck[i])) ∧
    (∀ i : Fin 32, (expandKey key)[i] = K (i.val + 4))

/-- R148: the sliding-window form of encryption: `X[0..3]` the loaded words, `X[i+4]` by the round function, and the output
`X[35], X[34], X[33], X[32]`. -/
def Obligations.SlidingWindowForm : Prop :=
  ∀ (rk : RoundKeys) (blk : List Byte), blk.length = 16 → ∃ X : Nat → Word,
    (⟨X 0, X 1, X 2, X 3⟩ : Quad) = loadBlock blk ∧
    (∀ i : Fin 32, X (i.val + 4) = X i.val ^^^ tData (X (i.val + 1) ^^^ X (i.val + 2) ^^^ X (i.val + 3) ^^^ rk[i])) ∧
    cryptBlock tData rk .enc blk = storeBlock ⟨X 35, X 34, X 33, X 32⟩

/-- R149: decryption and encryption under the same round keys are inverse to each other on every 16-byte block, whatever
function stands in the place of `TData`. -/
def Obligations.DecryptionInvertsEncryption : Prop :=
  ∀ (td : Word → Word) (rk : RoundKeys) (blk : List Byte), blk.length = 16 →
    cryptBlock td rk .dec (cryptBlock td rk .enc blk) = blk ∧ cryptBlock td rk .enc (cryptBlock td rk .dec blk) = blk

/-- V1, V3 (R8, R132, R147): the source's known-answer vector by the words the reference engine stores, and the first and the
last subkey of its key. It rests on the constants the spec supplies from general knowledge (log 10). -/
def Obligations.KnownAnswerVector : Prop :=
  let key : List Byte :=
    [0x01, 0x23, 0x45, 0x67, 0x89, 0xab, 0xcd, 0xef, 0xfe, 0xdc, 0xba, 0x98, 0x76, 0x54, 0x32, 0x10]
  (expandKey key)[0] = 0xf12186f9 ∧ (expandKey key)[31] = 0x9124a012 ∧
  cryptBlock tData (expandKey key) .enc key = storeBlock ⟨0x681edf34, 0xd206965e, 0x86b3e94f, 0x536e4246⟩

/-! ## Merged tables and batch datapath -/

/-- R165: every entry of the built quad, and the entries the rule gives as examples. -/
def Obligations.MergedTableEntries : Prop :=
  (∀ (k : Fin 4) (v : Byte), lookupTable builtTables k v = lData (placeLane k (sbox v))) ∧
  lookupTable builtTables 0 0x00 = 0x8ed55b5b ∧ lookupTable builtTables 1 0x00 = 0x5b8ed55b ∧
  lookupTable builtTables 2 0x00 = 0x5b5b8ed5 ∧ lookupTable builtTables 3 0x00 = 0xd55b5b8e ∧
  lookupTable builtTables 0 0x01 = 0xd0924242 ∧ lookupTable builtTables 0 0xff = 0x68492121 ∧
  ∀ k : Fin 4, lookupTable builtTables k 0x71 = 0

/-- R171: table `k` is table 0 rotated right by `8k` bits. -/
def Obligations.TablesAreRotations : Prop :=
  ∀ v : Byte, lookupTable builtTables 1 v = rotl (lookupTable builtTables 0 v) 24 ∧
    lookupTable builtTables 2 v = rotl (lookupTable builtTables 0 v) 16 ∧
    lookupTable builtTables 3 v = rotl (lookupTable builtTables 0 v) 8

/-- R169: over the built tables, the table form of the data transform is the data transform. -/
def Obligations.TableTransformIsDataTransform : Prop :=
  ∀ w : Word, tDataTab builtTables w = tData w

/-- R186, R190: the batch datapath, in chunks of any number of lanes, gives for every block what the block alone gives. -/
def Obligations.BatchIsBlockwise : Prop :=
  ∀ (td : Word → Word) (rk : RoundKeys) (dir : Direction) (lanes : Nat) (blocks : List (List Byte)), 1 ≤ lanes →
    cryptBatch td rk dir lanes blocks = blocks.map (cryptBlock td rk dir)

/-- R166, R167: the guard leaves the tables built with their values, counts one construction if it built them, changes nothing
else, and has no effect at all the second time. -/
def Obligations.EnsureTablesOnce : Prop :=
  ∀ s : State, s.Inv →
    (ensureTables s).1 = builtTables ∧
    (ensureTables s).2 = { s with tables := some builtTables, tbuilds := 1 } ∧
    ensureTables (ensureTables s).2 = ensureTables s

/-! ## KEYEXP -/

/-- R134 (success): with the key buffer present, 16 bytes long and in range, and a slot that exists, `KEYEXP` completes: the slot
holds the 32 subkeys of the key and is valid, `STATUS` is `DONE` and `OK`, and nothing else changes. -/
def Obligations.KeyexpLoadsSlot : Prop :=
  ∀ (s : State) (r : PortRegs) (c : Nat), s.issuingPort = some r → s.slots.length = s.cfg.nctx →
    r.slen.toNat = 16 → c < s.cfg.nctx → r.src.toNat + 16 ≤ s.cfg.bufBytes →
    exec (.keyexp true c) s = .next { s with
      slots := s.slots.set c (some (expandKey (s.memRead r.src.toNat 16)))
      ports := s.ports.set s.issuer { r with done := true, err := .ok } }

/-- R134, R210 (errors): the first failing check of `KEYEXP` decides the code, and only `STATUS` changes. -/
def Obligations.KeyexpErrorOrder : Prop :=
  ∀ (s : State) (r : PortRegs) (sp : Bool) (c : Nat), s.issuingPort = some r →
    (sp = false → exec (.keyexp sp c) s = .next (s.withStatus r .invalidArgument)) ∧
    (sp = true ∧ r.slen.toNat ≠ 16 → exec (.keyexp sp c) s = .next (s.withStatus r .invalidKeyLength)) ∧
    (sp = true ∧ r.slen.toNat = 16 ∧ s.cfg.nctx ≤ c →
      exec (.keyexp sp c) s = .next (s.withStatus r .invalidArgument)) ∧
    (sp = true ∧ r.slen.toNat = 16 ∧ c < s.cfg.nctx ∧ s.cfg.bufBytes < r.src.toNat + 16 →
      exec (.keyexp sp c) s = .next (s.withStatus r .invalidArgument))

/-- R206: `InvalidKeyLength` comes from `KEYEXP` alone, exactly when the key buffer is present and its length is not 16; and then
nothing but `STATUS` changes, whatever the bytes of the key buffer are. -/
def Obligations.InvalidKeyLengthExactly : Prop :=
  ∀ (i : Instr) (s t : State) (r r' : PortRegs), s.issuingPort = some r → exec i s = .next t → t.issuingPort = some r' →
    (r'.err = .invalidKeyLength ↔ ∃ c, i = .keyexp true c ∧ r.slen.toNat ≠ 16) ∧
    (r'.err = .invalidKeyLength → t = s.withStatus r .invalidKeyLength)

/-- The frame of `KEYEXP` (R32, R134): whatever its result, it leaves `BUF`, the tables, every other slot, every other port and
the operand and `CMD` registers of its own port as they were. -/
def Obligations.KeyexpFrame : Prop :=
  ∀ (s t : State) (r : PortRegs) (sp : Bool) (c : Nat), s.issuingPort = some r → exec (.keyexp sp c) s = .next t →
    s.SameHostSide t ∧ (∀ a, t.bufByte a = s.bufByte a) ∧ t.tables = s.tables ∧ t.tbuilds = s.tbuilds ∧
    (∀ c', c' ≠ c → t.slots[c']? = s.slots[c']?) ∧ (∀ p, p ≠ s.issuer → t.ports[p]? = s.ports[p]?) ∧
    ∃ code, t.issuingPort = some { r with done := true, err := code }

/-! ## ENC1, DEC1, ENCN, DECN -/

/-- R152 (success): `ENC1` by each engine completes: the destination holds the encryption of the source as it was, no other byte
changes, `STATUS` is `DONE` and `OK`, no slot changes, and the tables are built if the engine uses them. -/
def Obligations.Enc1Encrypts : Prop :=
  ∀ (s : State) (r : PortRegs) (rk : RoundKeys) (c : Nat), s.Inv → s.issuingPort = some r → s.context c = some rk →
    r.operands.slen = 16 → r.operands.dlen = 16 → r.operands.Good s.cfg →
    ∀ i uses,
      (i = .enc1Ref true true c ∧ uses = false) ∨ (i = .enc1Tab true true c ∧ uses = true) ∨
        (i = .enc1Bat true true c ∧ uses = decide (2 ≤ s.cfg.lanes)) →
      ∃ t, exec i s = .next t ∧
        t.memRead r.operands.dst 16 = cryptBlock tData rk .enc (s.memRead r.operands.src 16) ∧
        (∀ a, a < r.operands.dst ∨ r.operands.dst + 16 ≤ a → t.bufByte a = s.bufByte a) ∧
        t.ports = s.ports.set s.issuer { r with done := true, err := .ok } ∧
        t.slots = s.slots ∧ s.SameHostSide t ∧ s.TablesAfter uses t

/-- R153 (success): `DEC1` by each engine completes, as R152 with the decryption of the source. -/
def Obligations.Dec1Decrypts : Prop :=
  ∀ (s : State) (r : PortRegs) (rk : RoundKeys) (c : Nat), s.Inv → s.issuingPort = some r → s.context c = some rk →
    r.operands.slen = 16 → r.operands.dlen = 16 → r.operands.Good s.cfg →
    ∀ i uses,
      (i = .dec1Ref true true c ∧ uses = false) ∨ (i = .dec1Tab true true c ∧ uses = true) ∨
        (i = .dec1Bat true true c ∧ uses = decide (2 ≤ s.cfg.lanes)) →
      ∃ t, exec i s = .next t ∧
        t.memRead r.operands.dst 16 = cryptBlock tData rk .dec (s.memRead r.operands.src 16) ∧
        (∀ a, a < r.operands.dst ∨ r.operands.dst + 16 ≤ a → t.bufByte a = s.bufByte a) ∧
        t.ports = s.ports.set s.issuer { r with done := true, err := .ok } ∧
        t.slots = s.slots ∧ s.SameHostSide t ∧ s.TablesAfter uses t

/-- R192 (success): `ENCN` by each engine completes: for every block `b < N` the destination block holds the encryption of the
source block as it was, no other byte changes, and the tables are built if the engine uses them and `N >= 1`. -/
def Obligations.EncnEncrypts : Prop :=
  ∀ (s : State) (r : PortRegs) (rk : RoundKeys) (c : Nat), s.Inv → s.issuingPort = some r → s.context c = some rk →
    r.operands.slen % 16 = 0 → r.operands.dlen = r.operands.slen → r.operands.Good s.cfg →
    ∀ i uses,
      (i = .encnRef true true c ∧ uses = false) ∨ (i = .encnTab true true c ∧ uses = true) ∨
        (i = .encnBat true true c ∧ uses = decide (2 ≤ s.cfg.lanes)) →
      ∃ t, exec i s = .next t ∧
        (∀ b, b < r.operands.slen / 16 → t.memRead (r.operands.dst + 16 * b) 16 =
          cryptBlock tData rk .enc (s.memRead (r.operands.src + 16 * b) 16)) ∧
        (∀ a, a < r.operands.dst ∨ r.operands.dst + r.operands.slen ≤ a → t.bufByte a = s.bufByte a) ∧
        t.ports = s.ports.set s.issuer { r with done := true, err := .ok } ∧
        t.slots = s.slots ∧ s.SameHostSide t ∧ s.TablesAfter (uses && decide (r.operands.slen ≠ 0)) t

/-- R193 (success): `DECN` by each engine completes, as R192 with the decryption of each block. -/
def Obligations.DecnDecrypts : Prop :=
  ∀ (s : State) (r : PortRegs) (rk : RoundKeys) (c : Nat), s.Inv → s.issuingPort = some r → s.context c = some rk →
    r.operands.slen % 16 = 0 → r.operands.dlen = r.operands.slen → r.operands.Good s.cfg →
    ∀ i uses,
      (i = .decnRef true true c ∧ uses = false) ∨ (i = .decnTab true true c ∧ uses = true) ∨
        (i = .decnBat true true c ∧ uses = decide (2 ≤ s.cfg.lanes)) →
      ∃ t, exec i s = .next t ∧
        (∀ b, b < r.operands.slen / 16 → t.memRead (r.operands.dst + 16 * b) 16 =
          cryptBlock tData rk .dec (s.memRead (r.operands.src + 16 * b) 16)) ∧
        (∀ a, a < r.operands.dst ∨ r.operands.dst + r.operands.slen ≤ a → t.bufByte a = s.bufByte a) ∧
        t.ports = s.ports.set s.issuer { r with done := true, err := .ok } ∧
        t.slots = s.slots ∧ s.SameHostSide t ∧ s.TablesAfter (uses && decide (r.operands.slen ≠ 0)) t

/-- R191: an empty batch with both buffers present and a valid slot sets `STATUS` to `DONE`, `OK` and does nothing else: no byte,
no table, on every engine and at any addresses. The checks come first: with an absent buffer or an invalid slot it fails. -/
def Obligations.EmptyBatchDoesNothing : Prop :=
  ∀ (s : State) (r : PortRegs) (dir : Direction) (eng : Engine) (dp sp : Bool) (c : Nat), s.issuingPort = some r →
    r.operands.slen = 0 → r.operands.dlen = 0 →
    exec (cryptInstr .batch dir eng dp sp c) s =
      .next (s.withStatus r (if dp = true ∧ sp = true ∧ s.ctxValid c = true then .ok else .invalidArgument))

/-- R150 step 1, R207, R210: a crypt command with an absent buffer, an absent context, wrong lengths, a buffer out of range or a
partial overlap reports `InvalidArgument` and changes nothing but `STATUS`. -/
def Obligations.CryptRejectsBadArguments : Prop :=
  ∀ (s : State) (r : PortRegs) (arity : Arity) (dir : Direction) (eng : Engine) (dp sp : Bool) (c : Nat),
    s.issuingPort = some r →
    (sp = false ∨ dp = false ∨ s.cfg.nctx ≤ c ∨ s.slots[c]? = some none ∨ ¬ r.operands.GoodLengths arity ∨
      ¬ r.operands.Good s.cfg) →
    exec (cryptInstr arity dir eng dp sp c) s = .next (s.withStatus r .invalidArgument)

/-- The frame of the crypt commands (R59, R150): whatever its result, a crypt command leaves every slot, every other port and the
operand and `CMD` registers of its own port as they were, and every byte outside its destination buffer. -/
def Obligations.CryptFrame : Prop :=
  ∀ (s t : State) (r : PortRegs) (arity : Arity) (dir : Direction) (eng : Engine) (dp sp : Bool) (c : Nat), s.Inv →
    s.issuingPort = some r → exec (cryptInstr arity dir eng dp sp c) s = .next t →
    s.SameHostSide t ∧ t.slots = s.slots ∧ (∀ p, p ≠ s.issuer → t.ports[p]? = s.ports[p]?) ∧
    (∃ code, t.issuingPort = some { r with done := true, err := code }) ∧
    (∀ a, a < r.operands.dst ∨ r.operands.dst + r.operands.dlen ≤ a → t.bufByte a = s.bufByte a)

/-- R212: a command word, decoded or illegal, that ends with an error has changed `CMD` of its port, which holds the word, and
`STATUS`, which is `DONE` and the code, and nothing else: no `BUF` byte, no slot, no table, no operand register, no other
port. The action taken off the script and the issuer are the model's own (log 2, log 4). -/
def Obligations.FailedCommandChangesOnlyStatus : Prop :=
  ∀ (s t : State) (p : Nat) (r r' : PortRegs) (w : Word) (rest : List HostAction),
    s.script = .regWrite p 0 w :: rest → s.ports[p]? = some r → step s = .next t → t.ports[p]? = some r' → r'.err ≠ .ok →
    t = { s with
      script := rest
      issuer := p
      ports := s.ports.set p { r with cmd := w, done := true, err := r'.err } }

/-- R173: after a command the tables are built exactly if they were, or the command was a crypt command that used tables, passed
every check and had at least one block. -/
def Obligations.TablesBuiltExactlyWhen : Prop :=
  ∀ (i : Instr) (s t : State) (r r' : PortRegs), s.Inv → s.issuingPort = some r → exec i s = .next t →
    t.issuingPort = some r' →
    (t.trdy = true ↔ s.trdy = true ∨ ∃ arity dir eng c, i = cryptInstr arity dir eng true true c ∧
      (eng = .tab ∨ eng = .bat ∧ 2 ≤ s.cfg.lanes) ∧ r'.err = .ok ∧ 1 ≤ r.operands.slen / 16)

/-- R3: the three engines are interchangeable: every crypt command by `TAB` or `BAT` leaves the state that `REF` leaves, but for
the tables and their construction count. -/
def Obligations.EnginesInterchangeable : Prop :=
  ∀ (s : State) (arity : Arity) (dir : Direction) (eng : Engine) (dp sp : Bool) (c : Nat), s.Inv →
    ∃ t u, exec (cryptInstr arity dir .ref dp sp c) s = .next t ∧ exec (cryptInstr arity dir eng dp sp c) s = .next u ∧
      t = { u with tables := s.tables, tbuilds := s.tbuilds }

/-- R154: the result code and the output bytes of a crypt command depend on the operand registers, the context and the source
bytes only: not on `TRDY`, earlier commands, the port, `LANES` or the engine. (The size of `BUF` is a constant of the core.) -/
def Obligations.CryptDependsOnOperandsOnly : Prop :=
  ∀ (s s' t t' : State) (r r' q q' : PortRegs) (arity : Arity) (dir : Direction) (eng eng' : Engine) (dp sp : Bool)
    (c : Nat), s.Inv → s'.Inv → s.issuingPort = some r → s'.issuingPort = some r' →
    s.cfg.bufBytes = s'.cfg.bufBytes → r.operands = r'.operands → s.context c = s'.context c →
    (∀ a, r.operands.src ≤ a → a < r.operands.src + r.operands.slen → s.bufByte a = s'.bufByte a) →
    exec (cryptInstr arity dir eng dp sp c) s = .next t → exec (cryptInstr arity dir eng' dp sp c) s' = .next t' →
    t.issuingPort = some q → t'.issuingPort = some q' →
    q.err = q'.err ∧
    (q.err = .ok → ∀ a, r.operands.dst ≤ a → a < r.operands.dst + r.operands.dlen → t.bufByte a = t'.bufByte a)

/-- R149, R153, R193: an in-place encryption followed by the in-place decryption of the same buffer under the same slot leaves
`BUF` as it was, whatever engines the two commands use. -/
def Obligations.DecryptCommandUndoesEncrypt : Prop :=
  ∀ (s : State) (r : PortRegs) (arity : Arity) (eng eng' : Engine) (c : Nat), s.Inv → s.issuingPort = some r →
    s.ctxValid c = true → r.operands.dst = r.operands.src → r.operands.GoodLengths arity → r.operands.Good s.cfg →
    ∃ t u, exec (cryptInstr arity .enc eng true true c) s = .next t ∧
      exec (cryptInstr arity .dec eng' true true c) t = .next u ∧ ∀ a, u.bufByte a = s.bufByte a

/-- R194: a batch may be split in two: the command over the first `n` blocks followed by the command over the other `m` leaves
the bytes that one command over all `n + m` leaves, for buffers that are disjoint or in place. -/
def Obligations.BatchMayBeSplit : Prop :=
  ∀ (s : State) (r r1 r2 : PortRegs) (dir : Direction) (eng : Engine) (c n m : Nat), s.Inv → s.issuingPort = some r →
    s.ctxValid c = true → r.operands.slen = 16 * (n + m) → r.operands.dlen = r.operands.slen → r.operands.Good s.cfg →
    r1.operands = ⟨r.operands.src, 16 * n, r.operands.dst, 16 * n⟩ →
    r2.operands = ⟨r.operands.src + 16 * n, 16 * m, r.operands.dst + 16 * n, 16 * m⟩ →
    ∃ u t1 t2, exec (cryptInstr .batch dir eng true true c) s = .next u ∧
      exec (cryptInstr .batch dir eng true true c) (s.setPort s.issuer r1) = .next t1 ∧
      exec (cryptInstr .batch dir eng true true c) (t1.setPort t1.issuer r2) = .next t2 ∧
      ∀ a, t2.bufByte a = u.bufByte a

/-! ## Registers and host actions -/

/-- R25: the fields of `STATUS`; every command of port `p` overwrites it with `DONE = 1` and its own code; only a command of port
`p` changes it (but for `Reset`); a write to register 5 is ignored and a read of it changes nothing of the core. -/
def Obligations.StatusRegister : Prop :=
  (∀ r : PortRegs, r.statusWord.getLsbD 31 = r.done ∧ r.statusWord.extractLsb' 2 29 = 0 ∧
    (r.statusWord.extractLsb' 0 2).toNat = (match r.err with
      | .ok => 0 | .invalidKeyLength => 1 | .invalidArgument => 2 | .illegalCommand => 3)) ∧
  (∀ (s t : State) (p : Nat) (w : Word) (rest : List HostAction), s.script = .regWrite p 0 w :: rest →
    step s = .next t → ∃ r', t.ports[p]? = some r' ∧ r'.done = true) ∧
  (∀ (s t : State) (p : Nat), step s = .next t →
    (∀ w rest, s.script ≠ .regWrite p 0 w :: rest) → (∀ rest, s.script ≠ .reset :: rest) →
    (t.ports[p]?).map (·.statusWord) = (s.ports[p]?).map (·.statusWord)) ∧
  (∀ (s : State) (p : Nat) (r : PortRegs) (v : Word) (rest : List HostAction), s.ports[p]? = some r →
    (s.script = .regWrite p 5 v :: rest → step s = .next { s with script := rest }) ∧
    (s.script = .regRead p 5 :: rest → step s = .next { s with
      script := rest, replies := s.replies ++ [.reg p 5 r.statusWord] }))

/-- R23: the operand registers: a write to 1 to 4 stores the value, which a read returns; it changes no other register of the
port, no other port and nothing else. -/
def Obligations.OperandRegisters : Prop :=
  ∀ (s : State) (p : Nat) (r : PortRegs) (v : Word) (rest : List HostAction), s.ports[p]? = some r →
    (s.script = .regWrite p 1 v :: rest → step s = .next { s with script := rest, ports := s.ports.set p { r with src := v } }) ∧
    (s.script = .regWrite p 2 v :: rest → step s = .next { s with script := rest, ports := s.ports.set p { r with slen := v } }) ∧
    (s.script = .regWrite p 3 v :: rest → step s = .next { s with script := rest, ports := s.ports.set p { r with dst := v } }) ∧
    (s.script = .regWrite p 4 v :: rest → step s = .next { s with script := rest, ports := s.ports.set p { r with dlen := v } }) ∧
    (∀ n : Fin 256, s.script = .regRead p n :: rest → n.val ≤ 4 → step s = .next { s with
      script := rest
      replies := s.replies ++ [.reg p n (if n.val = 0 then r.cmd else if n.val = 1 then r.src else
        if n.val = 2 then r.slen else if n.val = 3 then r.dst else r.dlen)] })

/-- R29: reserved registers 10 to 255 read 0; a write to a reserved or read-only register (5 and up) is ignored; no register read
has a side effect on the core (it adds to the hosts' replies, the model's own field, log 3). -/
def Obligations.ReservedAndReadOnlyRegisters : Prop :=
  ∀ (s : State) (p : Nat) (r : PortRegs) (n : Fin 256) (rest : List HostAction), s.ports[p]? = some r →
    (∀ v, s.script = .regWrite p n v :: rest → 5 ≤ n.val → step s = .next { s with script := rest }) ∧
    (s.script = .regRead p n :: rest → ∃ v, (10 ≤ n.val → v = 0) ∧
      step s = .next { s with script := rest, replies := s.replies ++ [.reg p n v] })

/-- R26: `TSTAT`: bit 0 is `TRDY`, bits 31:1 read as 0, the same through every port, and writes are ignored. -/
def Obligations.TableStatusRegister : Prop :=
  ∀ (s : State) (p : Nat) (r : PortRegs) (rest : List HostAction), s.ports[p]? = some r →
    (s.script = .regRead p 6 :: rest → ∃ v : Word, v.getLsbD 0 = s.trdy ∧ v.extractLsb' 1 31 = 0 ∧
      step s = .next { s with script := rest, replies := s.replies ++ [.reg p 6 v] }) ∧
    (∀ v, s.script = .regWrite p 6 v :: rest → step s = .next { s with script := rest })

/-- R28: register `CTXV`: bit `c` is `CTXV[c]` for `c < NCTX`, bits `NCTX` to 31 read as 0, the same through every port, and
writes are ignored. -/
def Obligations.ContextValidRegister : Prop :=
  (∀ (s : State) (r : PortRegs) (b : Nat), s.cfg.nctx ≤ 32 → b < 32 → s.slots.length = s.cfg.nctx →
    ((readRegister s r 7).getLsbD b = true ↔ ∃ rk, s.slots[b]? = some (some rk))) ∧
  (∀ (s : State) (p : Nat) (r : PortRegs) (rest : List HostAction), s.ports[p]? = some r →
    (s.script = .regRead p 7 :: rest → step s = .next { s with
      script := rest, replies := s.replies ++ [.reg p 7 (readRegister s r 7)] }) ∧
    (∀ v, s.script = .regWrite p 7 v :: rest → step s = .next { s with script := rest }))

/-- R27: `CFG` and `BUFSZ`: the fields of `CFG`, the value of `BUFSZ`, constant (no step changes the configuration they show),
and writes ignored. -/
def Obligations.ConfigurationRegisters : Prop :=
  (∀ (s : State) (r : PortRegs), s.cfg.wf →
    ((readRegister s r 8).extractLsb' 0 8).toNat = s.cfg.lanes ∧ ((readRegister s r 8).extractLsb' 8 8).toNat = s.cfg.nctx ∧
    ((readRegister s r 8).extractLsb' 16 8).toNat = s.cfg.nports ∧ ((readRegister s r 8).extractLsb' 24 8).toNat = 1 ∧
    (readRegister s r 9).toNat = s.cfg.bufBytes) ∧
  (∀ s t : State, step s = .next t → t.cfg = s.cfg) ∧
  (∀ (s : State) (p : Nat) (r : PortRegs) (v : Word) (rest : List HostAction), s.ports[p]? = some r →
    s.script = .regWrite p 8 v :: rest ∨ s.script = .regWrite p 9 v :: rest → step s = .next { s with script := rest })

/-- R52: `BufWrite` sets its byte and changes nothing else; `BufRead` returns the byte and changes nothing (but the hosts'
replies, the model's own field, log 3). -/
def Obligations.HostBufferAccess : Prop :=
  ∀ (s : State) (a : Nat) (rest : List HostAction), s.buf.wf → a < s.cfg.bufBytes →
    (∀ b, s.script = .bufWrite a b :: rest → ∃ t, step s = .next t ∧
      t.bufByte a = b ∧ (∀ x, x ≠ a → t.bufByte x = s.bufByte x) ∧ t = { s with script := rest, buf := t.buf }) ∧
    (s.script = .bufRead a :: rest →
      step s = .next { s with script := rest, replies := s.replies ++ [.buf a (s.bufByte a)] })

/-- R53: a host buffer access at an address that does not exist is refused. -/
def Obligations.HostBufferOutOfRange : Prop :=
  ∀ (s : State) (a : Nat) (b : Byte) (rest : List HostAction), s.cfg.bufBytes ≤ a →
    s.script = .bufWrite a b :: rest ∨ s.script = .bufRead a :: rest → step s = .refused (.noSuchBufByte a)

/-- U7 (R10): a register access on a port that does not exist is refused. -/
def Obligations.AbsentPortRefused : Prop :=
  ∀ (s : State) (p : Nat) (n : Fin 256) (v : Word) (rest : List HostAction), s.Inv → s.cfg.nports ≤ p →
    s.script = .regWrite p n v :: rest ∨ s.script = .regRead p n :: rest → step s = .refused (.noSuchPort p)

/-- R10, R11: with no action pending the core does nothing. That a step is then the state itself is the model's choice
(log 6). -/
def Obligations.IdleCoreStays : Prop :=
  ∀ s : State, s.script = [] → step s = .next s

/-- R235, R40: `Reset` in every state: every port register 0, every context destroyed, the tables forgotten, `TBUILDS` 0, no byte
of `BUF` kept, the configuration unchanged. The hosts' script and replies stay, and the bytes of `BUF` are the free bytes
of the next epoch (the model's own fields, log 2, log 3, log 5). -/
def Obligations.ResetAction : Prop :=
  ∀ (s : State) (rest : List HostAction), s.script = .reset :: rest → ∃ t, step s = .next t ∧
    (∀ p, p < s.cfg.nports → ∃ r, t.ports[p]? = some r ∧ r.cmd = 0 ∧ r.src = 0 ∧ r.slen = 0 ∧ r.dst = 0 ∧ r.dlen = 0 ∧
      r.statusWord = 0) ∧
    t.ports.length = s.cfg.nports ∧ (∀ c, t.ctxValid c = false) ∧ t.trdy = false ∧ t.tbuilds = 0 ∧ t.cfg = s.cfg ∧
    (∀ a, t.bufByte a = Config.freeByte (s.epoch + 1) a) ∧ t.script = rest ∧ t.replies = s.replies

/-- R40: the state after reset: every register of every port reads 0, no context is valid, the tables are not built. -/
def Obligations.ResetState : Prop :=
  (∀ p, p < State.reset.cfg.nports → ∃ r, State.reset.ports[p]? = some r ∧
    ∀ n : Fin 256, n.val ≤ 7 → readRegister State.reset r n = 0) ∧
  State.reset.trdy = false ∧ State.reset.tbuilds = 0 ∧ ∀ c, State.reset.ctxValid c = false

/-! ## Whole-machine rules -/

/-- The invariant holds after reset. -/
def Obligations.InvariantAtReset : Prop := State.reset.Inv

/-- The invariant is kept by every step from every state that has it: the window and slot counts, the tables' contents and their
one construction, the canonical form of `BUF` and its range. -/
def Obligations.StepKeepsInvariant : Prop :=
  ∀ s t : State, s.Inv → step s = .next t → t.Inv

/-- R11, R246: every action is enabled in every state except those refused, and every action completes: from a good state, a
script of enabled actions runs to its end with no fault and no refusal. That the steps past the end of the script are next
states too is the model's choice (log 6). -/
def Obligations.EnabledScriptsRunSafely : Prop :=
  ∀ (s : State) (n : Nat), s.Inv → s.ScriptEnabled → s.RunsSafely n

/-- R32: a slot is written only by a successful `KEYEXP` that names it, which writes all 32 words and the valid bit in one step,
and by `Reset`, which clears the valid bit. -/
def Obligations.SlotWrittenOnlyByKeyexp : Prop :=
  ∀ (s t : State) (c : Nat), s.Inv → step s = .next t → t.slots[c]? ≠ s.slots[c]? →
    (∃ rest, s.script = .reset :: rest ∧ t.slots[c]? = some none) ∨
    ∃ p w rest r q, s.script = .regWrite p 0 w :: rest ∧ decode w = .ok (.keyexp true c) ∧ s.ports[p]? = some r ∧
      t.slots[c]? = some (some (expandKey (s.memRead r.src.toNat 16))) ∧ t.ports[p]? = some q ∧ q.err = .ok

/-- R35: between resets `TRDY` changes only from 0 to 1, in the same step in which all entries receive their values, and then
nothing changes the tables. -/
def Obligations.TablesMonotone : Prop :=
  ∀ s t : State, s.Inv → step s = .next t → (∀ rest, s.script ≠ .reset :: rest) →
    (s.trdy = true → t.tables = s.tables) ∧
    (s.trdy = false → t.trdy = true → t.tables = some builtTables ∧ t.tbuilds = s.tbuilds + 1 ∧
      ∃ p w rest, s.script = .regWrite p 0 w :: rest)

/-- R33: the round keys are not readable: two states that differ only in the words of valid slots give the same reply to every
register read and every buffer read. -/
def Obligations.RoundKeysNotReadable : Prop :=
  ∀ (s t : State) (sl : List (Option RoundKeys)) (rest : List HostAction),
    sl.map Option.isSome = s.slots.map Option.isSome →
    (∃ p n, s.script = .regRead p n :: rest) ∨ (∃ a, s.script = .bufRead a :: rest) → step s = .next t →
    ∃ t', step { s with slots := sl } = .next t' ∧ t'.replies = t.replies

/-- R11, R246, R41: from a good state whose pending actions are all enabled, the next step answers a next state that is good and
whose pending actions are all enabled. The pending actions are the model's own (log 2), and so is the step with none pending
(log 6). -/
def Obligations.EnabledStepKeepsGood : Prop :=
  ∀ s : State, s.Inv → s.ScriptEnabled → ∃ t, step s = .next t ∧ t.Inv ∧ t.ScriptEnabled
end

