-- ==== Sys2Proof/Laws/PerInstr.lean ====
section
/-! SUPPORT. A statement about every command, one lemma per constructor: its word matches its own row of the opcode table
(R89). -/

namespace Sys2Proof.Laws.EncodesItsRow

/-- The word of a well-formed command matches the row of R89 that has its mnemonic. -/
def Statement (i : Instr) : Prop :=
  i.WellFormed → ∃ row ∈ opcodeRows, row.mnemonic = i.mnemonic ∧ row.matchesWord (encode i)

/-- The fields the mask of the crypt rows keeps: whatever `DP`, `SP` and `CTX` are, only `ENG` and `OP` are left. -/
theorem pack_crypt_mask : ∀ eng ∈ [0#2, 1#2, 2#2], ∀ op ∈ [2#4, 3#4, 4#4, 5#4], ∀ (dp sp : Bool) (x : BitVec 8),
    (0#14 ++ BitVec.ofBool dp ++ BitVec.ofBool sp ++ x ++ 0#2 ++ eng ++ op) &&& 0xFFFC00FF =
      packCommand false false 0 eng op := by
  decide +kernel

/-- The mask of the row `KEYEXP` keeps `DP` as well, which is 0. -/
theorem pack_keyexp_mask : ∀ (sp : Bool) (x : BitVec 8),
    (0#14 ++ BitVec.ofBool false ++ BitVec.ofBool sp ++ x ++ 0#2 ++ 0#2 ++ 1#4) &&& 0xFFFE00FF =
      packCommand false false 0 0 1 := by
  decide +kernel

theorem keyexp (sp : Bool) (c : Nat) : Statement (.keyexp sp c) := fun _ =>
  ⟨opcodeRows[0], by simp [opcodeRows], rfl, (pack_keyexp_mask sp _).trans (by decide)⟩

theorem enc1Ref (dp sp : Bool) (c : Nat) : Statement (.enc1Ref dp sp c) := fun _ =>
  ⟨opcodeRows[1], by simp [opcodeRows], rfl, (pack_crypt_mask _ (by decide) _ (by decide) dp sp _).trans (by decide)⟩

theorem enc1Tab (dp sp : Bool) (c : Nat) : Statement (.enc1Tab dp sp c) := fun _ =>
  ⟨opcodeRows[2], by simp [opcodeRows], rfl, (pack_crypt_mask _ (by decide) _ (by decide) dp sp _).trans (by decide)⟩

theorem enc1Bat (dp sp : Bool) (c : Nat) : Statement (.enc1Bat dp sp c) := fun _ =>
  ⟨opcodeRows[3], by simp [opcodeRows], rfl, (pack_crypt_mask _ (by decide) _ (by decide) dp sp _).trans (by decide)⟩

theorem dec1Ref (dp sp : Bool) (c : Nat) : Statement (.dec1Ref dp sp c) := fun _ =>
  ⟨opcodeRows[4], by simp [opcodeRows], rfl, (pack_crypt_mask _ (by decide) _ (by decide) dp sp _).trans (by decide)⟩

theorem dec1Tab (dp sp : Bool) (c : Nat) : Statement (.dec1Tab dp sp c) := fun _ =>
  ⟨opcodeRows[5], by simp [opcodeRows], rfl, (pack_crypt_mask _ (by decide) _ (by decide) dp sp _).trans (by decide)⟩

theorem dec1Bat (dp sp : Bool) (c : Nat) : Statement (.dec1Bat dp sp c) := fun _ =>
  ⟨opcodeRows[6], by simp [opcodeRows], rfl, (pack_crypt_mask _ (by decide) _ (by decide) dp sp _).trans (by decide)⟩

theorem encnRef (dp sp : Bool) (c : Nat) : Statement (.encnRef dp sp c) := fun _ =>
  ⟨opcodeRows[7], by simp [opcodeRows], rfl, (pack_crypt_mask _ (by decide) _ (by decide) dp sp _).trans (by decide)⟩

theorem encnTab (dp sp : Bool) (c : Nat) : Statement (.encnTab dp sp c) := fun _ =>
  ⟨opcodeRows[8], by simp [opcodeRows], rfl, (pack_crypt_mask _ (by decide) _ (by decide) dp sp _).trans (by decide)⟩

theorem encnBat (dp sp : Bool) (c : Nat) : Statement (.encnBat dp sp c) := fun _ =>
  ⟨opcodeRows[9], by simp [opcodeRows], rfl, (pack_crypt_mask _ (by decide) _ (by decide) dp sp _).trans (by decide)⟩

theorem decnRef (dp sp : Bool) (c : Nat) : Statement (.decnRef dp sp c) := fun _ =>
  ⟨opcodeRows[10], by simp [opcodeRows], rfl, (pack_crypt_mask _ (by decide) _ (by decide) dp sp _).trans (by decide)⟩

theorem decnTab (dp sp : Bool) (c : Nat) : Statement (.decnTab dp sp c) := fun _ =>
  ⟨opcodeRows[11], by simp [opcodeRows], rfl, (pack_crypt_mask _ (by decide) _ (by decide) dp sp _).trans (by decide)⟩

theorem decnBat (dp sp : Bool) (c : Nat) : Statement (.decnBat dp sp c) := fun _ =>
  ⟨opcodeRows[12], by simp [opcodeRows], rfl, (pack_crypt_mask _ (by decide) _ (by decide) dp sp _).trans (by decide)⟩

end Sys2Proof.Laws.EncodesItsRow
end

