-- ==== Sys2Proof/Tests/Slice0.lean ====
section
/-! SUPPORT. The model's own tests. Expected results are those of `spec/95_test_vectors.md` (V1 to V11, P1) and of the examples in
the rules, cited at each group. The `witness_` theorems show, for every statement with hypotheses, a concrete state and
operands that meet them. -/

open Sys2Proof Sys2Proof.Machine

namespace Sys2Proof.Tests

/-! ## Small states -/

/-- The key, and plaintext block, of V1. -/
def katBytes : List Byte :=
  [0x01, 0x23, 0x45, 0x67, 0x89, 0xab, 0xcd, 0xef, 0xfe, 0xdc, 0xba, 0x98, 0x76, 0x54, 0x32, 0x10]

/-- A port's registers with the four operands given and nothing executed yet. -/
def regs (src slen dst dlen : Word) : PortRegs := ⟨0, src, slen, dst, dlen, false, .ok⟩

/-- A core of two lanes, two slots, two ports and 64 bytes: slot 0 holds the context of the key of V1, slot 1 none, and `BUF` starts
with the block of V1 and a block of zeros. Port 0 has the operands given. -/
def small (src slen dst dlen : Word) : State :=
  { State.initial ⟨2, 2, 2, 64⟩ 0 with
    ports := [regs src slen dst dlen, PortRegs.zero]
    slots := [some (expandKey katBytes), none]
    buf := Memory.insertBytes [] 0 (katBytes ++ List.replicate 16 0) }

/-- The same core with one lane. -/
def smallOneLane (src slen dst dlen : Word) : State := { small src slen dst dlen with cfg := ⟨1, 2, 2, 64⟩ }

/-- The state after a command of port 0. -/
def after (i : Instr) (s : State) : State :=
  match exec i s with
  | .next t => t
  | _ => s

/-- The state after one step. -/
def afterStep (s : State) : State :=
  match step s with
  | .next t => t
  | _ => s

/-- `STATUS` of a port. -/
def statusOf (s : State) (p : Nat) : Option Word := (s.ports[p]?).map (·.statusWord)

theorem small_inv (src slen dst dlen : Word) : (small src slen dst dlen).Inv where
  cfgWf := (by decide : (⟨2, 2, 2, 64⟩ : Config).wf)
  portCount := rfl
  slotCount := rfl
  tablesBuilt := fun t h => by cases h
  buildsOnce := rfl
  bufWf := insertBytes_wf _ _ _ List.Pairwise.nil
  bufInRange := fun x h => by
    rcases mem_insertBytes h with h | h
    · cases h
    · have h2 : x.1 < 0 + 32 := h.2
      show x.1 < 64
      omega
  issuerIsPort := (by decide : 0 < 2)

/-! ## Well-formedness: the one check refuses a slot number that does not fit the field `CTX` -/

theorem test_wellFormed_refuses_slot_256 : ¬ (Instr.keyexp true 256).WellFormed := by decide
theorem test_wellFormed_refuses_crypt_slot_256 : ¬ (Instr.decnBat true true 256).WellFormed := by decide
theorem test_wellFormed_allows_slot_255 : (Instr.keyexp true 255).WellFormed ∧ (Instr.decnBat true true 255).WellFormed := by
  decide

/-! ## Decoding: words written out field by field from R80: `RSV1 DP SP CTX RSV0 ENG OP` -/

theorem test_decode_keyexp : decode 0b00000000000000_0_1_00000001_00_00_0001 = .ok (.keyexp true 1) := by decide
theorem test_decode_enc1Ref : decode 0b00000000000000_1_1_00000000_00_00_0010 = .ok (.enc1Ref true true 0) := by decide
theorem test_decode_enc1Tab : decode 0b00000000000000_0_1_00000001_00_01_0010 = .ok (.enc1Tab false true 1) := by decide
theorem test_decode_enc1Bat : decode 0b00000000000000_1_0_00000010_00_10_0010 = .ok (.enc1Bat true false 2) := by decide
theorem test_decode_dec1Ref : decode 0b00000000000000_1_1_10000000_00_00_0011 = .ok (.dec1Ref true true 128) := by decide
theorem test_decode_dec1Tab : decode 0b00000000000000_1_1_00000000_00_01_0011 = .ok (.dec1Tab true true 0) := by decide
theorem test_decode_dec1Bat : decode 0b00000000000000_0_0_11111111_00_10_0011 = .ok (.dec1Bat false false 255) := by decide
theorem test_decode_encnRef : decode 0b00000000000000_1_1_00000011_00_00_0100 = .ok (.encnRef true true 3) := by decide
theorem test_decode_encnTab : decode 0b00000000000000_0_1_00000000_00_01_0100 = .ok (.encnTab false true 0) := by decide
theorem test_decode_encnBat : decode 0b00000000000000_1_1_00000000_00_10_0100 = .ok (.encnBat true true 0) := by decide
theorem test_decode_decnRef : decode 0b00000000000000_1_1_00000000_00_00_0101 = .ok (.decnRef true true 0) := by decide
theorem test_decode_decnTab : decode 0b00000000000000_1_0_00000000_00_01_0101 = .ok (.decnTab true false 0) := by decide
theorem test_decode_decnBat : decode 0b00000000000000_1_1_00000001_00_10_0101 = .ok (.decnBat true true 1) := by decide

/-- The illegal words of V9, each by its reason. -/
theorem test_decode_illegal :
    decode 0x00000000 = .error .reservedOp ∧ decode 0x00030006 = .error .reservedOp ∧
    decode 0x0003000f = .error .reservedOp ∧ decode 0x00030032 = .error .reservedEngine ∧
    decode 0x00010011 = .error .keyexpEngine ∧ decode 0x00030001 = .error .keyexpDestination ∧
    decode 0x00030042 = .error .rsv0NotZero ∧ decode 0x00070002 = .error .rsv1NotZero ∧
    decode 0x80030002 = .error .rsv1NotZero := by decide

theorem test_decodeTableWord :
    decodeTableWord 32 0x00030125 = some (.decnBat true true 1) ∧ decodeTableWord 8 0x01 = some (.keyexp false 0) ∧
    decodeTableWord 32 0x00010011 = none ∧ decodeTableWord 40 0x01 = none := by decide

/-! ## Primitive units (R112 to R117, R169) -/

theorem test_sub : sub 0x00010203 = 0xd690e9fe := by decide +kernel
theorem test_rotl : rotl 0x12345678 8 = 0x34567812 := by decide
theorem test_tData : tData 0x00010203 = 0x96597ff5 := by decide +kernel
theorem test_tKey : tKey 0x00010203 = 0x34c47b58 := by decide +kernel
theorem test_tDataTab : tDataTab builtTables 0x00010203 = 0x96597ff5 := by decide +kernel

/-- V3: subkeys of the all-zero key. -/
theorem test_expandKey_zero :
    (expandKey (List.replicate 16 0))[0] = 0x45603b23 ∧ (expandKey (List.replicate 16 0))[31] = 0xa16ca108 := by
  decide +kernel

/-! ## One command each: the bytes of V7 and V11, the codes of V10 -/

theorem test_keyexp_loads : ((after (.keyexp true 1) (small 0 16 0 0)).slots[1]?).join.map (·[0]) = some 0xf12186f9 := by
  decide +kernel
/-- V10 row 6: the length is checked before the slot. -/
theorem test_keyexp_length_first : statusOf (after (.keyexp true 2) (small 0 15 0 0)) 0 = some 0x80000001 := by decide

theorem test_enc1Ref_byte : (after (.enc1Ref true true 0) (small 0 16 32 16)).bufByte 32 = 0x68 := by decide +kernel
/-- V10 row 1: no key in the slot. -/
theorem test_enc1Ref_no_context : statusOf (after (.enc1Ref true true 1) (small 0 16 32 16)) 0 = some 0x80000002 := by
  decide +kernel

theorem test_enc1Tab_byte : (after (.enc1Tab true true 0) (small 0 16 32 16)).bufByte 32 = 0x68 := by decide +kernel
/-- V10 row 17: a partial overlap builds no tables. -/
theorem test_enc1Tab_overlap :
    statusOf (after (.enc1Tab true true 0) (small 0 16 8 16)) 0 = some 0x80000002 ∧
    (after (.enc1Tab true true 0) (small 0 16 8 16)).trdy = false := by decide +kernel

theorem test_enc1Bat_byte : (after (.enc1Bat true true 0) (smallOneLane 0 16 32 16)).bufByte 47 = 0x46 := by
  decide +kernel
/-- V10 row 15: both lengths must be 16. -/
theorem test_enc1Bat_length : statusOf (after (.enc1Bat true true 0) (small 0 16 32 32)) 0 = some 0x80000002 := by
  decide +kernel

theorem test_dec1Ref_byte : (after (.dec1Ref true true 0) (small 0 16 32 16)).bufByte 32 = 0x93 := by decide +kernel
/-- V10 row 16: an absent destination. -/
theorem test_dec1Ref_absent : statusOf (after (.dec1Ref false true 0) (small 0 16 32 16)) 0 = some 0x80000002 := by
  decide +kernel

/-- P1: the first table-using command. -/
theorem test_dec1Tab_builds :
    (after (.dec1Tab true true 0) (small 0 16 32 16)).trdy = true ∧
    (after (.dec1Tab true true 0) (small 0 16 32 16)).tbuilds = 1 := by decide +kernel
/-- One byte past the end; the last range that fits is at 48. -/
theorem test_dec1Tab_range :
    statusOf (after (.dec1Tab true true 0) (small 0 16 49 16)) 0 = some 0x80000002 ∧
    statusOf (after (.dec1Tab true true 0) (small 0 16 48 16)) 0 = some 0x80000000 := by decide +kernel

theorem test_dec1Bat_byte : (after (.dec1Bat true true 0) (smallOneLane 0 16 32 16)).bufByte 33 = 0x38 := by decide +kernel
/-- V11: with one lane there is no table access. -/
theorem test_dec1Bat_one_lane : (after (.dec1Bat true true 0) (smallOneLane 0 16 32 16)).trdy = false := by decide +kernel

theorem test_encnRef_second_block : (after (.encnRef true true 0) (small 0 32 0 32)).bufByte 16 = 0x26 := by decide +kernel
/-- V10 row 18. -/
theorem test_encnRef_length : statusOf (after (.encnRef true true 0) (small 0 24 32 24)) 0 = some 0x80000002 := by
  decide +kernel

/-- V10 row 22: the empty batch succeeds and builds nothing. -/
theorem test_encnTab_empty :
    statusOf (after (.encnTab true true 0) (small 16 0 32 0)) 0 = some 0x80000000 ∧
    (after (.encnTab true true 0) (small 16 0 32 0)).trdy = false := by decide +kernel
/-- V10 row 19. -/
theorem test_encnTab_zero_mismatch : statusOf (after (.encnTab true true 0) (small 16 0 32 16)) 0 = some 0x80000002 := by
  decide +kernel

theorem test_encnBat_second_block : (after (.encnBat true true 0) (smallOneLane 0 32 0 32)).bufByte 16 = 0x26 := by
  decide +kernel
/-- P2: with two lanes the batch builds the tables. -/
theorem test_encnBat_builds : (after (.encnBat true true 0) (small 0 32 0 32)).trdy = true := by decide +kernel

theorem test_decnRef_second_block : (after (.decnRef true true 0) (small 0 32 32 32)).bufByte 48 = 0xf7 := by
  decide +kernel
/-- V10 row 20. -/
theorem test_decnRef_length : statusOf (after (.decnRef true true 0) (small 0 32 0 48)) 0 = some 0x80000002 := by
  decide +kernel

theorem test_decnTab_builds : (after (.decnTab true true 0) (small 0 32 32 32)).trdy = true := by decide +kernel
/-- V10 row 21: the destination out of range. -/
theorem test_decnTab_range : statusOf (after (.decnTab true true 0) (small 0 32 48 32)) 0 = some 0x80000002 := by
  decide +kernel

theorem test_decnBat_second_block : (after (.decnBat true true 0) (smallOneLane 0 32 32 32)).bufByte 48 = 0xf7 := by
  decide +kernel
theorem test_decnBat_absent : statusOf (after (.decnBat true false 0) (small 0 32 32 32)) 0 = some 0x80000002 := by
  decide +kernel

/-! ## Steps -/

/-- `KEYEXP 0, -` as the first command after reset (V10 row 4): the word in `CMD`, `InvalidArgument` in `STATUS`. -/
theorem test_first_command :
    (afterStep (State.reset.withFetchWord 32 0x00000001)).ports =
      [{ PortRegs.zero with cmd := 0x00000001, done := true, err := .invalidArgument }] := by decide
/-- V10 row 10. -/
theorem test_illegal_command : statusOf (afterStep (State.reset.withFetchWord 32 0)) 0 = some 0x80000003 := by decide
/-- P1: the registers as they read after reset. -/
theorem test_reset_registers :
    readRegister State.reset PortRegs.zero 8 = 0x01010104 ∧ readRegister State.reset PortRegs.zero 9 = 0x00010000 ∧
    readRegister State.reset PortRegs.zero 5 = 0 ∧ readRegister State.reset PortRegs.zero 200 = 0 := by decide
/-- `CTXV` with slot 0 valid of two (R28). -/
theorem test_ctxv : readRegister (small 0 0 0 0) PortRegs.zero 7 = 1 := by decide +kernel
/-- A buffer write and what is read back (R52). -/
theorem test_buf : (afterStep { State.reset with script := [.bufWrite 65535 0xab] }).bufByte 65535 = 0xab := by decide
/-- A port's write reaches that port alone (R23). -/
theorem test_port_one : (afterStep { small 0 0 0 0 with script := [.regWrite 1 3 7] }).ports =
    [regs 0 0 0 0, { PortRegs.zero with dst := 7 }] := by decide +kernel
/-- R92: `ENC1.REF 0, [0x10, 16], [0x20, 16]`. -/
theorem test_expand_enc1 :
    expandLine 0 (.crypt .single .enc .ref 0 (some ⟨0x10, 16⟩) (some ⟨0x20, 16⟩)) =
      [.regWrite 0 1 0x10, .regWrite 0 2 16, .regWrite 0 3 0x20, .regWrite 0 4 16, .regWrite 0 0 0x00030002] := by decide
/-- R91, R92: `PORT 1` and `KEYEXP 1, -`, then `PUT` of two bytes. -/
theorem test_expand_script :
    expandScript 0 [.port 1, .keyexp 1 none, .put 4 [0xaa, 0xbb], .rd .status] =
      [.regWrite 1 0 0x00000101, .bufWrite 4 0xaa, .bufWrite 5 0xbb, .regRead 1 5] := by decide

/-! ## Witnesses: the hypotheses of the statements can be met -/

/-- The context of slot 0 of `small`. -/
def smallKey : RoundKeys := expandKey katBytes

/-- The state `s` with one pending action. -/
def pending (a : HostAction) (s : State) : State := { s with script := [a] }

theorem witness_DecodeOfEncode : (Instr.decnBat true false 255).WellFormed := by decide
theorem witness_EncodeOfDecode : decode 0x0002ff25 = .ok (.decnBat true false 255) := by decide
theorem witness_DecodeAgreesWithOpcodeTable :
    (∃ row ∈ opcodeRows, row.matchesWord 0x00030125 ∧ row.mnemonic = "DECN.BAT") ∧
    ∀ row ∈ opcodeRows, ¬ row.matchesWord 0x00030032 := by decide
/-- A word for each clause of the decoding by fields, and a step for its execution clause. -/
theorem witness_DecodeByFields :
    (∀ x ∈ [(0x0001ff01, 1, 0), (0x00030002, 2, 0), (0x00030112, 2, 1), (0x00030022, 2, 2), (0x00030003, 3, 0),
        (0x0003ff13, 3, 1), (0x00030023, 3, 2), (0x00000004, 4, 0), (0x00030014, 4, 1), (0x00030024, 4, 2),
        (0x00030005, 5, 0), (0x00030015, 5, 1), (0x00030025, 5, 2)],
      let w : Word := BitVec.ofNat 32 x.1
      w.extractLsb' 18 14 = 0 ∧ w.extractLsb' 6 2 = 0 ∧ (w.extractLsb' 0 4).toNat = x.2.1 ∧
        (w.extractLsb' 4 2).toNat = x.2.2) ∧
    (0x0001ff01 : Word).getLsbD 17 = false ∧
    (pending (.regWrite 0 0 0x00030006) State.reset).script = .regWrite 0 0 0x00030006 :: [] ∧
    (pending (.regWrite 0 0 0x00030006) State.reset).ports[0]? = some PortRegs.zero ∧
    decode 0x00030006 = .error .reservedOp := by decide
theorem witness_StepRunsDecodedCommand :
    (pending (.regWrite 0 0 0x00010001) State.reset).script = .regWrite 0 0 0x00010001 :: [] ∧
    (pending (.regWrite 0 0 0x00010001) State.reset).ports[0]? = some PortRegs.zero ∧
    decode 0x00010001 = .ok (.keyexp true 0) := by decide
theorem witness_MnemonicWordsDecode : 255 ≤ 255 ∧ keyexpWord 255 none = 0x0000ff01 := by decide
theorem witness_RotationMovesBits : 1 ≤ (31 : Fin 32).val ∧ 31 < 32 := by decide
/-- Amounts whose sum is 32, and amounts whose sum is not. -/
theorem witness_DiffusionLaws :
    1 ≤ (31 : Fin 32).val ∧ 1 ≤ (1 : Fin 32).val ∧ ((31 : Fin 32).val + (1 : Fin 32).val) % 32 = 0 ∧
    ((31 : Fin 32).val + (31 : Fin 32).val) % 32 ≠ 0 := by decide
theorem witness_BlockByteOrder : katBytes.length = 16 := rfl
theorem witness_KeyScheduleRecurrence : katBytes.length = 16 := rfl
theorem witness_SlidingWindowForm : katBytes.length = 16 := rfl
theorem witness_DecryptionInvertsEncryption : katBytes.length = 16 := rfl
theorem witness_BatchIsBlockwise : 1 ≤ 1 ∧ 1 ≤ 255 := by decide
theorem witness_EnsureTablesOnce : (small 0 0 0 0).Inv := small_inv 0 0 0 0

/-- The last slot, and the last 16 bytes of `BUF`. -/
theorem witness_KeyexpLoadsSlot :
    (small 48 16 0 0).issuingPort = some (regs 48 16 0 0) ∧ (small 48 16 0 0).slots.length = (small 48 16 0 0).cfg.nctx ∧
    (regs 48 16 0 0).slen.toNat = 16 ∧ 1 < (small 48 16 0 0).cfg.nctx ∧
    (regs 48 16 0 0).src.toNat + 16 ≤ (small 48 16 0 0).cfg.bufBytes :=
  ⟨rfl, rfl, by decide, by decide, by decide⟩
/-- One case for each clause, at its boundary. -/
theorem witness_KeyexpErrorOrder :
    (small 48 17 0 0).issuingPort = some (regs 48 17 0 0) ∧ (regs 48 17 0 0).slen.toNat ≠ 16 ∧
    (regs 48 15 0 0).slen.toNat ≠ 16 ∧ (regs 49 16 0 0).slen.toNat = 16 ∧ (small 49 16 0 0).cfg.nctx ≤ 2 ∧
    1 < (small 49 16 0 0).cfg.nctx ∧ (small 49 16 0 0).cfg.bufBytes < (regs 49 16 0 0).src.toNat + 16 :=
  ⟨rfl, by decide, by decide, by decide, by decide, by decide, by decide⟩
theorem witness_InvalidKeyLengthExactly :
    (small 0 15 0 0).issuingPort = some (regs 0 15 0 0) ∧
    ∃ t, exec (.keyexp true 0) (small 0 15 0 0) = .next t ∧
      t.issuingPort = some { regs 0 15 0 0 with done := true, err := .invalidKeyLength } :=
  ⟨rfl, _, rfl, rfl⟩
theorem witness_KeyexpFrame :
    (small 0 16 0 0).issuingPort = some (regs 0 16 0 0) ∧ ∃ t, exec (.keyexp true 1) (small 0 16 0 0) = .next t :=
  ⟨rfl, _, rfl⟩

/-- Operands of a single-block command: disjoint, up to the last byte of `BUF`; and in place. -/
theorem witness_single_operands :
    (small 0 16 48 16).Inv ∧ (small 0 16 48 16).issuingPort = some (regs 0 16 48 16) ∧
    (small 0 16 48 16).context 0 = some smallKey ∧ (regs 0 16 48 16).operands.slen = 16 ∧
    (regs 0 16 48 16).operands.dlen = 16 ∧ (regs 0 16 48 16).operands.Good (small 0 16 48 16).cfg ∧
    (regs 5 16 5 16).operands.Good (small 5 16 5 16).cfg :=
  ⟨small_inv _ _ _ _, rfl, rfl, rfl, rfl, by unfold BufferOperands.Good; decide, by unfold BufferOperands.Good; decide⟩
theorem witness_Enc1Encrypts :
    (∃ t, exec (.enc1Ref true true 0) (small 0 16 48 16) = .next t) ∧
    (∃ t, exec (.enc1Tab true true 0) (small 0 16 48 16) = .next t) ∧
    (∃ t, exec (.enc1Bat true true 0) (small 0 16 48 16) = .next t) := ⟨⟨_, rfl⟩, ⟨_, rfl⟩, ⟨_, rfl⟩⟩
theorem witness_Dec1Decrypts :
    (∃ t, exec (.dec1Ref true true 0) (small 0 16 48 16) = .next t) ∧
    (∃ t, exec (.dec1Tab true true 0) (small 0 16 48 16) = .next t) ∧
    (∃ t, exec (.dec1Bat true true 0) (small 0 16 48 16) = .next t) := ⟨⟨_, rfl⟩, ⟨_, rfl⟩, ⟨_, rfl⟩⟩
/-- Operands of a batch command: two blocks, disjoint, up to the last byte; and an empty batch at any addresses. -/
theorem witness_batch_operands :
    (small 0 32 32 32).Inv ∧ (small 0 32 32 32).issuingPort = some (regs 0 32 32 32) ∧
    (small 0 32 32 32).context 0 = some smallKey ∧ (regs 0 32 32 32).operands.slen % 16 = 0 ∧
    (regs 0 32 32 32).operands.dlen = (regs 0 32 32 32).operands.slen ∧
    (regs 0 32 32 32).operands.Good (small 0 32 32 32).cfg ∧ (regs 100 0 101 0).operands.Good (small 100 0 101 0).cfg :=
  ⟨small_inv _ _ _ _, rfl, rfl, rfl, rfl, by unfold BufferOperands.Good; decide, by unfold BufferOperands.Good; decide⟩
theorem witness_EncnEncrypts :
    (∃ t, exec (.encnRef true true 0) (small 0 32 32 32) = .next t) ∧
    (∃ t, exec (.encnTab true true 0) (small 0 32 32 32) = .next t) ∧
    (∃ t, exec (.encnBat true true 0) (small 0 32 32 32) = .next t) := ⟨⟨_, rfl⟩, ⟨_, rfl⟩, ⟨_, rfl⟩⟩
theorem witness_DecnDecrypts :
    (∃ t, exec (.decnRef true true 0) (small 0 32 32 32) = .next t) ∧
    (∃ t, exec (.decnTab true true 0) (small 0 32 32 32) = .next t) ∧
    (∃ t, exec (.decnBat true true 0) (small 0 32 32 32) = .next t) := ⟨⟨_, rfl⟩, ⟨_, rfl⟩, ⟨_, rfl⟩⟩
/-- With a valid slot and with one that is not. -/
theorem witness_EmptyBatchDoesNothing :
    (small 100 0 101 0).issuingPort = some (regs 100 0 101 0) ∧ (regs 100 0 101 0).operands.slen = 0 ∧
    (regs 100 0 101 0).operands.dlen = 0 ∧ (small 100 0 101 0).ctxValid 0 = true ∧
    (small 100 0 101 0).ctxValid 1 = false := ⟨rfl, rfl, rfl, rfl, rfl⟩
/-- Each cause of a rejection that lies in the state or in the operands, at its boundary. -/
theorem witness_CryptRejectsBadArguments :
    (small 0 16 8 16).issuingPort = some (regs 0 16 8 16) ∧ (small 0 16 8 16).cfg.nctx ≤ 2 ∧
    (small 0 16 8 16).slots[1]? = some none ∧ ¬ (regs 0 16 8 32).operands.GoodLengths .single ∧
    ¬ (regs 0 24 32 24).operands.GoodLengths .batch ∧ ¬ (regs 0 0 32 16).operands.GoodLengths .batch ∧
    ¬ (regs 0 16 15 16).operands.Good (small 0 16 15 16).cfg ∧ ¬ (regs 0 16 49 16).operands.Good (small 0 16 49 16).cfg ∧
    ¬ (regs 49 16 0 16).operands.Good (small 49 16 0 16).cfg :=
  ⟨rfl, by decide, rfl, by simp [BufferOperands.GoodLengths, regs, PortRegs.operands],
    by simp [BufferOperands.GoodLengths, regs, PortRegs.operands],
    by simp [BufferOperands.GoodLengths, regs, PortRegs.operands], by unfold BufferOperands.Good; decide,
    by unfold BufferOperands.Good; decide, by unfold BufferOperands.Good; decide⟩
theorem witness_CryptFrame :
    (small 0 32 32 32).Inv ∧ (small 0 32 32 32).issuingPort = some (regs 0 32 32 32) ∧
    ∃ t, exec (cryptInstr .batch .dec .tab true true 0) (small 0 32 32 32) = .next t :=
  ⟨small_inv _ _ _ _, rfl, _, rfl⟩
/-- A decoded command that fails, and an illegal word. -/
theorem witness_FailedCommandChangesOnlyStatus :
    (small 0 15 0 0).ports[0]? = some (regs 0 15 0 0) ∧
    (∃ t r, step (pending (.regWrite 0 0 0x00010001) (small 0 15 0 0)) = .next t ∧ t.ports[0]? = some r ∧ r.err ≠ .ok) ∧
    (∃ t r, step (pending (.regWrite 0 0 0x00000000) (small 0 15 0 0)) = .next t ∧ t.ports[0]? = some r ∧ r.err ≠ .ok) :=
  ⟨rfl, ⟨_, _, rfl, rfl, by decide⟩, ⟨_, _, rfl, rfl, by decide⟩⟩
theorem witness_TablesBuiltExactlyWhen :
    (small 0 16 48 16).Inv ∧ (small 0 16 48 16).issuingPort = some (regs 0 16 48 16) ∧
    ∃ t, exec (cryptInstr .single .enc .tab true true 0) (small 0 16 48 16) = .next t ∧
      t.issuingPort = some { regs 0 16 48 16 with done := true, err := .ok } :=
  ⟨small_inv _ _ _ _, rfl, _, rfl, rfl⟩
theorem witness_EnginesInterchangeable : (small 0 16 48 16).Inv := small_inv 0 16 48 16
/-- Two states that differ in `LANES`, and two engines. -/
theorem witness_CryptDependsOnOperandsOnly :
    let s := small 0 16 48 16
    let s' := smallOneLane 0 16 48 16
    s.Inv ∧ s'.Inv ∧ s.issuingPort = some (regs 0 16 48 16) ∧ s'.issuingPort = some (regs 0 16 48 16) ∧
    s.cfg.bufBytes = s'.cfg.bufBytes ∧ s.context 0 = s'.context 0 ∧ (∀ a, s.bufByte a = s'.bufByte a) ∧
    (∃ t q, exec (cryptInstr .single .enc .ref true true 0) s = .next t ∧ t.issuingPort = some q) ∧
    (∃ t q, exec (cryptInstr .single .enc .bat true true 0) s' = .next t ∧ t.issuingPort = some q) := by
  have h := small_inv 0 16 48 16
  exact ⟨h, ⟨(by decide : (⟨1, 2, 2, 64⟩ : Config).wf), h.portCount, h.slotCount, h.tablesBuilt, h.buildsOnce, h.bufWf,
    h.bufInRange, h.issuerIsPort⟩, rfl, rfl, rfl, rfl, fun _ => rfl, ⟨_, _, rfl, rfl⟩, ⟨_, _, rfl, rfl⟩⟩
theorem witness_DecryptCommandUndoesEncrypt :
    (small 0 16 0 16).Inv ∧ (small 0 16 0 16).issuingPort = some (regs 0 16 0 16) ∧
    (small 0 16 0 16).ctxValid 0 = true ∧ (regs 0 16 0 16).operands.dst = (regs 0 16 0 16).operands.src ∧
    (regs 0 16 0 16).operands.GoodLengths .single ∧ (regs 0 16 0 16).operands.GoodLengths .batch ∧
    (regs 0 16 0 16).operands.Good (small 0 16 0 16).cfg :=
  ⟨small_inv _ _ _ _, rfl, rfl, rfl, ⟨rfl, rfl⟩, ⟨rfl, rfl⟩, by unfold BufferOperands.Good; decide⟩
/-- Two blocks split into one and one. -/
theorem witness_BatchMayBeSplit :
    (small 0 32 32 32).Inv ∧ (small 0 32 32 32).issuingPort = some (regs 0 32 32 32) ∧
    (small 0 32 32 32).ctxValid 0 = true ∧ (regs 0 32 32 32).operands.slen = 16 * (1 + 1) ∧
    (regs 0 32 32 32).operands.dlen = (regs 0 32 32 32).operands.slen ∧
    (regs 0 32 32 32).operands.Good (small 0 32 32 32).cfg ∧ (regs 0 16 32 16).operands = ⟨0, 16 * 1, 32, 16 * 1⟩ ∧
    (regs 16 16 48 16).operands = ⟨0 + 16 * 1, 16 * 1, 32 + 16 * 1, 16 * 1⟩ :=
  ⟨small_inv _ _ _ _, rfl, rfl, rfl, rfl, by unfold BufferOperands.Good; decide, rfl, rfl⟩

/-- Three blocks in place, split into one and two. -/
theorem witness_BatchMayBeSplit_in_place :
    (small 5 48 5 48).Inv ∧ (small 5 48 5 48).issuingPort = some (regs 5 48 5 48) ∧
    (small 5 48 5 48).ctxValid 0 = true ∧ (regs 5 48 5 48).operands.slen = 16 * (1 + 2) ∧
    (regs 5 48 5 48).operands.dlen = (regs 5 48 5 48).operands.slen ∧
    (regs 5 48 5 48).operands.Good (small 5 48 5 48).cfg ∧ (regs 5 16 5 16).operands = ⟨5, 16 * 1, 5, 16 * 1⟩ ∧
    (regs 21 32 21 32).operands = ⟨5 + 16 * 1, 16 * 2, 5 + 16 * 1, 16 * 2⟩ :=
  ⟨small_inv _ _ _ _, rfl, rfl, rfl, rfl, by unfold BufferOperands.Good; decide, rfl, rfl⟩
/-- Two disjoint blocks, split into none and two, and into two and none. -/
theorem witness_BatchMayBeSplit_empty_part :
    (small 0 32 32 32).Inv ∧ (small 0 32 32 32).issuingPort = some (regs 0 32 32 32) ∧
    (small 0 32 32 32).ctxValid 0 = true ∧ (regs 0 32 32 32).operands.slen = 16 * (0 + 2) ∧
    (regs 0 32 32 32).operands.slen = 16 * (2 + 0) ∧
    (regs 0 32 32 32).operands.dlen = (regs 0 32 32 32).operands.slen ∧
    (regs 0 32 32 32).operands.Good (small 0 32 32 32).cfg ∧ (regs 0 0 32 0).operands = ⟨0, 16 * 0, 32, 16 * 0⟩ ∧
    (regs 0 32 32 32).operands = ⟨0 + 16 * 0, 16 * 2, 32 + 16 * 0, 16 * 2⟩ ∧
    (regs 32 0 64 0).operands = ⟨0 + 16 * 2, 16 * 0, 32 + 16 * 2, 16 * 0⟩ :=
  ⟨small_inv _ _ _ _, rfl, rfl, rfl, rfl, rfl, by unfold BufferOperands.Good; decide, rfl, rfl, rfl⟩

/-! ### Registers and host actions -/

/-- A `CMD` write that completes; a step of another port's register; a port that exists for the last clause. -/
theorem witness_StatusRegister :
    (∃ t, step (pending (.regWrite 1 0 0x00000001) (small 0 0 0 0)) = .next t) ∧
    (∃ t, step (pending (.regWrite 1 1 5) (small 0 0 0 0)) = .next t) ∧
    (∀ w rest, (pending (.regWrite 1 1 5) (small 0 0 0 0)).script ≠ .regWrite 0 0 w :: rest) ∧
    (∀ rest, (pending (.regWrite 1 1 5) (small 0 0 0 0)).script ≠ .reset :: rest) ∧
    (pending (.regWrite 1 5 9) (small 0 0 0 0)).ports[1]? = some PortRegs.zero ∧
    (pending (.regRead 1 5) (small 0 0 0 0)).ports[1]? = some PortRegs.zero :=
  ⟨⟨_, rfl⟩, ⟨_, rfl⟩, by simp [pending], by simp [pending], rfl, rfl⟩
theorem witness_OperandRegisters :
    (pending (.regWrite 1 4 9) (small 0 0 0 0)).ports[1]? = some PortRegs.zero ∧
    (pending (.regWrite 1 4 9) (small 0 0 0 0)).script = .regWrite 1 4 9 :: [] ∧
    (pending (.regRead 1 4) (small 0 0 0 0)).script = .regRead 1 4 :: [] ∧ (4 : Fin 256).val ≤ 4 :=
  ⟨rfl, rfl, rfl, by decide⟩
theorem witness_ReservedAndReadOnlyRegisters :
    (pending (.regWrite 1 5 9) (small 0 0 0 0)).ports[1]? = some PortRegs.zero ∧ 5 ≤ (5 : Fin 256).val ∧
    5 ≤ (255 : Fin 256).val ∧ 10 ≤ (10 : Fin 256).val ∧
    (pending (.regRead 1 255) (small 0 0 0 0)).script = .regRead 1 255 :: [] := ⟨rfl, by decide, by decide, by decide, rfl⟩
theorem witness_TableStatusRegister :
    (pending (.regRead 1 6) (small 0 0 0 0)).ports[1]? = some PortRegs.zero ∧
    (pending (.regRead 1 6) (small 0 0 0 0)).script = .regRead 1 6 :: [] ∧
    (pending (.regWrite 1 6 1) (small 0 0 0 0)).script = .regWrite 1 6 1 :: [] := ⟨rfl, rfl, rfl⟩
theorem witness_ContextValidRegister :
    (small 0 0 0 0).cfg.nctx ≤ 32 ∧ 31 < 32 ∧ (small 0 0 0 0).slots.length = (small 0 0 0 0).cfg.nctx ∧
    (pending (.regRead 1 7) (small 0 0 0 0)).ports[1]? = some PortRegs.zero := ⟨by decide, by decide, rfl, rfl⟩
/-- The largest parameters that R9 allows. -/
theorem witness_ConfigurationRegisters :
    (⟨255, 32, 255, 2 ^ 31⟩ : Config).wf ∧ (∃ t, step (small 0 0 0 0) = .next t) ∧
    (pending (.regWrite 1 8 1) (small 0 0 0 0)).ports[1]? = some PortRegs.zero := ⟨by decide, ⟨_, rfl⟩, rfl⟩
theorem witness_HostBufferAccess :
    (small 0 0 0 0).buf.wf ∧ 63 < (small 0 0 0 0).cfg.bufBytes ∧
    (pending (.bufWrite 63 1) (small 0 0 0 0)).script = .bufWrite 63 1 :: [] ∧
    (pending (.bufRead 63) (small 0 0 0 0)).script = .bufRead 63 :: [] :=
  ⟨(small_inv 0 0 0 0).bufWf, by decide, rfl, rfl⟩
theorem witness_HostBufferOutOfRange :
    (small 0 0 0 0).cfg.bufBytes ≤ 64 ∧ (pending (.bufRead 64) (small 0 0 0 0)).script = .bufRead 64 :: [] :=
  ⟨by decide, rfl⟩
theorem witness_AbsentPortRefused :
    (small 0 0 0 0).Inv ∧ (small 0 0 0 0).cfg.nports ≤ 2 ∧
    (pending (.regRead 2 0) (small 0 0 0 0)).script = .regRead 2 0 :: [] := ⟨small_inv _ _ _ _, by decide, rfl⟩
theorem witness_IdleCoreStays : State.reset.script = [] := rfl
theorem witness_ResetAction : (pending .reset (small 0 0 0 0)).script = .reset :: [] := rfl
theorem witness_ResetState : 0 < State.reset.cfg.nports := by decide

/-! ### Whole-machine rules -/

theorem small_pending_inv (a : HostAction) (src slen dst dlen : Word) : (pending a (small src slen dst dlen)).Inv :=
  let h := small_inv src slen dst dlen
  ⟨h.cfgWf, h.portCount, h.slotCount, h.tablesBuilt, h.buildsOnce, h.bufWf, h.bufInRange, h.issuerIsPort⟩

theorem witness_StepKeepsInvariant :
    (pending (.regWrite 0 0 0x00030012) (small 0 16 48 16)).Inv ∧
    ∃ t, step (pending (.regWrite 0 0 0x00030012) (small 0 16 48 16)) = .next t :=
  ⟨small_pending_inv _ _ _ _ _, _, rfl⟩
/-- An action of every kind, at the last port and the last byte. -/
theorem witness_EnabledScriptsRunSafely :
    (pending .reset (small 0 0 0 0)).Inv ∧
    { small 0 0 0 0 with script := [.regWrite 1 0 0, .regRead 1 255, .bufWrite 63 1, .bufRead 63, .reset] }.ScriptEnabled := by
  refine ⟨small_pending_inv _ _ _ _ _, ?_⟩
  intro a h
  simp only [List.mem_cons, List.not_mem_nil, or_false] at h
  rcases h with rfl | rfl | rfl | rfl | rfl <;> simp [HostAction.Enabled, small, State.initial]
/-- With an action at the last port pending, and with none. -/
theorem witness_EnabledStepKeepsGood :
    (pending (.regWrite 1 0 0) (small 0 0 0 0)).Inv ∧ (pending (.regWrite 1 0 0) (small 0 0 0 0)).ScriptEnabled ∧
    (small 0 0 0 0).Inv ∧ (small 0 0 0 0).ScriptEnabled := by
  refine ⟨small_pending_inv _ _ _ _ _, ?_, small_inv _ _ _ _, ?_⟩
  · intro a h
    obtain rfl : a = .regWrite 1 0 0 := by simpa [pending] using h
    exact (by decide : 1 < 2)
  · intro a h
    cases h
/-- A `KEYEXP` on slot 1, and a `Reset`, that each change a slot. -/
theorem witness_SlotWrittenOnlyByKeyexp :
    (∃ t, step (pending (.regWrite 0 0 0x00010101) (small 0 16 0 0)) = .next t ∧
      t.slots[1]? ≠ (pending (.regWrite 0 0 0x00010101) (small 0 16 0 0)).slots[1]?) ∧
    (∃ t, step (pending .reset (small 0 16 0 0)) = .next t ∧ t.slots[0]? ≠ (pending .reset (small 0 16 0 0)).slots[0]?) := by
  refine ⟨⟨_, rfl, ?_⟩, ⟨_, rfl, ?_⟩⟩
  · show some (some _) ≠ some none
    simp
  · show some none ≠ some (some _)
    simp
/-- A step that builds the tables, and a step after they are built. -/
theorem witness_TablesMonotone :
    let s := pending (.regWrite 0 0 0x00030012) (small 0 16 48 16)
    s.Inv ∧ (∀ rest, s.script ≠ .reset :: rest) ∧ s.trdy = false ∧
    (∃ t, step s = .next t ∧ t.trdy = true ∧ ∃ u, step t = .next u ∧ ∀ rest, t.script ≠ .reset :: rest) := by
  refine ⟨small_pending_inv _ _ _ _ _, by simp [pending], rfl, _, rfl, rfl, _, rfl, ?_⟩
  intro rest h
  cases h
/-- Another context in slot 0, a register read and a buffer read. -/
theorem witness_RoundKeysNotReadable :
    let s := pending (.regRead 0 7) (small 0 0 0 0)
    [some (expandKey (List.replicate 16 0)), none].map Option.isSome = s.slots.map Option.isSome ∧
    (∃ p n, s.script = .regRead p n :: []) ∧ ∃ t, step s = .next t := ⟨rfl, ⟨_, _, rfl⟩, _, rfl⟩

end Sys2Proof.Tests
end

/-! # Proofs: the invariant, the engines' datapaths, and progress

The laws the obligations of `00_scope.md` rest on, in the order of the definitions they speak of, and then the obligations. -/

/-! ## Every update of the state keeps the invariant -/

namespace Sys2Proof.Machine

/-- The invariant reads the configuration, the two counts, the tables, `BUF` and the issuer, and nothing else. -/
theorem State.Inv.congr {s t : State} (hs : s.Inv) (hcfg : t.cfg = s.cfg) (hports : t.ports.length = s.ports.length)
    (hslots : t.slots.length = s.slots.length) (htables : t.tables = s.tables) (htbuilds : t.tbuilds = s.tbuilds)
    (hbuf : t.buf = s.buf) (hissuer : t.issuer = s.issuer) : t.Inv where
  cfgWf := hcfg ▸ hs.cfgWf
  portCount := by rw [hports, hcfg, hs.portCount]
  slotCount := by rw [hslots, hcfg, hs.slotCount]
  tablesBuilt := htables ▸ hs.tablesBuilt
  buildsOnce := by rw [htbuilds, trdy_congr htables, hs.buildsOnce]
  bufWf := hbuf ▸ hs.bufWf
  bufInRange := by rw [hbuf, hcfg]; exact hs.bufInRange
  issuerIsPort := by rw [hissuer, hcfg]; exact hs.issuerIsPort

section Updates

variable {s : State} (hs : s.Inv)
include hs

theorem lanes_pos : 1 ≤ s.cfg.lanes := by
  obtain ⟨⟨hlanes, -⟩, -⟩ := hs.cfgWf
  exact hlanes

theorem nports_pos : 1 ≤ s.cfg.nports := by
  obtain ⟨-, -, ⟨hports, -⟩, -⟩ := hs.cfgWf
  exact hports

theorem inv_withScript (rest : List HostAction) : (s.withScript rest).Inv := hs.congr rfl rfl rfl rfl rfl rfl rfl

theorem inv_reply (x : Reply) : (s.reply x).Inv := hs.congr rfl rfl rfl rfl rfl rfl rfl

theorem inv_setPort (p : Nat) (r : PortRegs) : (s.setPort p r).Inv :=
  hs.congr rfl List.length_set rfl rfl rfl rfl rfl

theorem inv_withStatus (r : PortRegs) (k : ResultCode) : (s.withStatus r k).Inv :=
  hs.congr rfl List.length_set rfl rfl rfl rfl rfl

theorem inv_report (k : ResultCode) : (s.report k).Inv :=
  hs.congr rfl (List.length_modify ..) rfl rfl rfl rfl rfl

theorem inv_setSlot (c : Nat) (rk : RoundKeys) : (s.setSlot c rk).Inv :=
  hs.congr rfl rfl List.length_set rfl rfl rfl rfl

theorem inv_acceptCommand {p : Nat} (hp : p < s.cfg.nports) (r : PortRegs) (w : Word) : (s.acceptCommand p r w).Inv :=
  { inv_setPort hs p { r with cmd := w } with issuerIsPort := hp }

/-- A string written inside `BUF` lists no byte at an address that does not exist. -/
theorem inv_memWrite {a : Nat} {v : List Byte} (hv : a + v.length ≤ s.cfg.bufBytes) : (s.memWrite a v).Inv :=
  { hs with
    bufWf := insertBytes_wf _ _ _ hs.bufWf
    bufInRange := fun x hx => by
      rcases mem_insertBytes hx with hx | ⟨-, hlt⟩
      · exact hs.bufInRange x hx
      · exact Nat.lt_of_lt_of_le hlt hv }

theorem inv_resetCore : (resetCore s).Inv where
  cfgWf := hs.cfgWf
  portCount := List.length_replicate
  slotCount := List.length_replicate
  tablesBuilt := fun _ h => nomatch h
  buildsOnce := rfl
  bufWf := List.Pairwise.nil
  bufInRange := fun _ h => nomatch h
  issuerIsPort := show 0 < s.cfg.nports from nports_pos hs

/-- The guard builds the tables at most once (R41, R166). -/
theorem inv_prepareTransform (eng : Engine) : (prepareTransform eng s).2.Inv := by
  rw [prepareTransform_eq eng hs.tablesBuilt]
  split
  · have hone : (if s.trdy then s.tbuilds else s.tbuilds + 1) = 1 := by
      rw [hs.buildsOnce]; cases s.trdy <;> rfl
    exact { hs with tablesBuilt := fun t h => (Option.some.inj h).symm, buildsOnce := hone }
  · exact hs

end Updates

/-! ## The table transform is the data transform (R169) -/

theorem rotl_xor (a b : Word) (n : Fin 32) : rotl (a ^^^ b) n = rotl a n ^^^ rotl b n := by
  ext i hi
  simp only [rotl, BitVec.getElem_or, BitVec.getElem_xor, BitVec.getElem_shiftLeft, BitVec.getElem_ushiftRight,
    BitVec.getLsbD_xor]
  by_cases h : i < n.val
  · simp [h]
  · have hpast : 32 ≤ 32 - n.val + i := by omega
    simp [h, BitVec.getLsbD_of_ge _ _ hpast]

theorem lData_xor (a b : Word) : lData (a ^^^ b) = lData a ^^^ lData b := by
  simp only [lData, rotl_xor]
  ac_rfl

theorem getLsbD_placeLane (k : Fin 4) (b : Byte) (i : Nat) (hi : i < 32) :
    (placeLane k b).getLsbD i = (decide (24 - 8 * k.val ≤ i) && b.getLsbD (i - (24 - 8 * k.val))) := by
  simp only [placeLane, BitVec.getLsbD_shiftLeft, BitVec.getLsbD_setWidth]
  grind

/-- The four lanes do not meet, so a word is the XOR of its bytes, each placed in its lane (R110). -/
theorem be32_eq_xor_placeLane (b0 b1 b2 b3 : Byte) :
    be32 b0 b1 b2 b3 = placeLane 0 b0 ^^^ placeLane 1 b1 ^^^ placeLane 2 b2 ^^^ placeLane 3 b3 := by
  refine BitVec.eq_of_getLsbD_eq fun i hi => ?_
  have h0 : (placeLane 0 b0).getLsbD i = (decide (24 ≤ i) && b0.getLsbD (i - 24)) := getLsbD_placeLane 0 b0 i hi
  have h1 : (placeLane 1 b1).getLsbD i = (decide (16 ≤ i) && b1.getLsbD (i - 16)) := getLsbD_placeLane 1 b1 i hi
  have h2 : (placeLane 2 b2).getLsbD i = (decide (8 ≤ i) && b2.getLsbD (i - 8)) := getLsbD_placeLane 2 b2 i hi
  have h3 : (placeLane 3 b3).getLsbD i = b3.getLsbD i := by simpa using getLsbD_placeLane 3 b3 i hi
  rw [be32, BitVec.getLsbD_append, BitVec.getLsbD_append, BitVec.getLsbD_append]
  simp only [BitVec.getLsbD_xor, h0, h1, h2, h3]
  grind

@[simp] theorem lookupTable_builtTables (k : Fin 4) (v : Byte) : lookupTable builtTables k v = tableEntry k v := by
  simp [lookupTable, builtTables]

/-- `LData` is linear, so it may be applied lane by lane: each lane's part is a table entry. -/
theorem tDataTab_builtTables : tDataTab builtTables = tData := by
  funext w
  calc tDataTab builtTables w
      = lData (sub w) := by
        simp only [tDataTab, lookupTable_builtTables, tableEntry, ← lData_xor, ← be32_eq_xor_placeLane, sub]
    _ = tData w := rfl

/-- Every engine's rounds use the data transform (R172). -/
theorem prepareTransform_fst (eng : Engine) {s : State} (hs : s.Inv) : (prepareTransform eng s).1 = tData := by
  rw [prepareTransform_eq eng hs.tablesBuilt]
  split
  · exact tDataTab_builtTables
  · rfl

/-- Undoing the guard gives the state back: tables and count are all it changes. -/
theorem prepareTransform_forget (eng : Engine) (s : State) :
    { (prepareTransform eng s).2 with tables := s.tables, tbuilds := s.tbuilds } = s := by
  rw [prepareTransform_frame]

/-! ## The batch datapath gives what each block alone gives (R186, R190) -/

/-- The lane vectors whose lanes hold the given state registers. -/
def lanesOf (xs : List Quad) : LaneVectors := ⟨xs.map (·.x0), xs.map (·.x1), xs.map (·.x2), xs.map (·.x3)⟩

theorem loadLanes_eq_lanesOf (blocks : List (List Byte)) : loadLanes blocks = lanesOf (blocks.map loadBlock) := by
  simp [loadLanes, lanesOf, loadBlock, Function.comp_def]

/-- A vector round is the scalar round in each lane (R187). -/
theorem vectorRound_lanesOf (td : Word → Word) (xs : List Quad) (k : Word) :
    vectorRound td (lanesOf xs) k = lanesOf (xs.map (roundStep td · k)) := by
  simp [vectorRound, lanesOf, roundStep, List.zipWith_map, List.zipWith_self, Function.comp_def]

/-- The rounds in lock-step are the rounds lane by lane, over any sequence of round indices. -/
theorem foldl_vectorRound_lanesOf (td : Word → Word) (rk : RoundKeys) (order : List (Fin 32)) (xs : List Quad) :
    order.foldl (fun v i => vectorRound td v rk[i]) (lanesOf xs) =
      lanesOf (xs.map fun x => order.foldl (fun x i => roundStep td x rk[i]) x) := by
  induction order generalizing xs with
  | nil => simp
  | cons i order ih => simp only [List.foldl_cons, vectorRound_lanesOf, ih, List.map_map, Function.comp_def]

/-- The final permutation and the serialisation, lane by lane. -/
theorem storeLanes_lanesOf (xs : List Quad) :
    storeLanes (lanesOf xs).x3 (lanesOf xs).x2 (lanesOf xs).x1 (lanesOf xs).x0 =
      xs.map fun x => storeBlock (reverseQuad x) := by
  induction xs with
  | nil => rfl
  | cons x xs ih => exact congrArg (storeBlock (reverseQuad x) :: ·) ih

theorem cryptChunk_eq_map (td : Word → Word) (rk : RoundKeys) (dir : Direction) (blocks : List (List Byte)) :
    cryptChunk td rk dir blocks = blocks.map (cryptBlock td rk dir) := by
  simp only [cryptChunk, loadLanes_eq_lanesOf, foldl_vectorRound_lanesOf, storeLanes_lanesOf, List.map_map]
  rfl

/-- `n` chunks cover the first `n * lanes` blocks. -/
theorem cryptChunks_eq_map (td : Word → Word) (rk : RoundKeys) (dir : Direction) (lanes n : Nat)
    (blocks : List (List Byte)) :
    cryptChunks td rk dir lanes n blocks = (blocks.take (n * lanes)).map (cryptBlock td rk dir) := by
  induction n generalizing blocks with
  | zero => simp [cryptChunks]
  | succ n ih =>
    rw [cryptChunks, cryptChunk_eq_map, ih, ← List.map_append, Nat.succ_mul, Nat.add_comm, List.take_add]

/-- `ceil(N / LANES)` chunks cover all the blocks. -/
theorem cryptBatch_eq_map (td : Word → Word) (rk : RoundKeys) (dir : Direction) {lanes : Nat} (hlanes : 1 ≤ lanes)
    (blocks : List (List Byte)) : cryptBatch td rk dir lanes blocks = blocks.map (cryptBlock td rk dir) := by
  have hcover : blocks.length ≤ (blocks.length + lanes - 1) / lanes * lanes := by
    have := Nat.lt_div_mul_add (a := blocks.length + lanes - 1) (b := lanes) hlanes
    omega
  rw [cryptBatch, cryptChunks_eq_map, List.take_of_length_le hcover]

theorem cryptBlocks_eq_map (eng : Engine) (td : Word → Word) {lanes : Nat} (hlanes : 1 ≤ lanes) (rk : RoundKeys)
    (dir : Direction) (blocks : List (List Byte)) :
    cryptBlocks eng td lanes rk dir blocks = blocks.map (cryptBlock td rk dir) := by
  cases eng with
  | ref => rfl
  | tab => rfl
  | bat => exact cryptBatch_eq_map td rk dir hlanes blocks

/-! ## The commands: every outcome, and what it keeps -/

/-- The bytes a crypt command writes to its destination: each source block by the reference rounds, packed (R147, R151). -/
def State.cryptOutput (s : State) (dir : Direction) (rk : RoundKeys) (o : BufferOperands) : List Byte :=
  ((splitBlocks o.blockCount (s.memRead o.src (16 * o.blockCount))).map (cryptBlock tData rk dir)).flatten

theorem length_cryptOutput (s : State) (dir : Direction) (rk : RoundKeys) (o : BufferOperands) :
    (s.cryptOutput dir rk o).length = 16 * o.blockCount := by
  simp [State.cryptOutput, List.length_flatten, Function.comp_def, Nat.mul_comm]

/-- Whatever the engine, the buffers' part of a crypt command is: the guard, and the same bytes written. -/
theorem cryptBuffers_eq_memWrite (eng : Engine) (dir : Direction) (rk : RoundKeys) (o : BufferOperands) {s : State}
    (hs : s.Inv) :
    cryptBuffers eng dir rk o s = (prepareTransform eng s).2.memWrite o.dst (s.cryptOutput dir rk o) := by
  rw [cryptBuffers_frame, prepareTransform_fst eng hs, cryptBlocks_eq_map eng tData (lanes_pos hs), State.memWrite,
    prepareTransform_frame]
  rfl

section Commands

variable {s t : State} {r : PortRegs}

theorem execKeyexp_of_error {sp : Bool} {c : Nat} {e : CommandError} (hr : s.issuingPort = some r)
    (he : keyexpError sp c r.operands s.cfg = some e) : execKeyexp sp c s = .next (s.withStatus r e.code) := by
  simp only [execKeyexp, hr, he, raise, report_eq_withStatus hr]

theorem execKeyexp_of_ok {sp : Bool} {c : Nat} (hr : s.issuingPort = some r)
    (he : keyexpError sp c r.operands s.cfg = none) :
    execKeyexp sp c s = .next ((s.setSlot c (expandKey (s.memRead r.operands.src 16))).withStatus r .ok) := by
  have hr' (rk : RoundKeys) : (s.setSlot c rk).issuingPort = some r := hr
  simp only [execKeyexp, hr, he, complete, report_eq_withStatus (hr' _)]

variable {eng : Engine} {dir : Direction} {arity : Arity} {dp sp : Bool} {c : Nat} {rk : RoundKeys}

theorem execCrypt_of_error {e : CommandError} (hr : s.issuingPort = some r)
    (hc : cryptCheck arity dp sp c r.operands s = .error e) :
    execCrypt eng dir arity dp sp c s = .next (s.withStatus r .invalidArgument) := by
  obtain rfl := cryptCheck_error hc
  simp only [execCrypt, hr, hc, raise, report_eq_withStatus hr, CommandError.code]

theorem execCrypt_of_empty (hr : s.issuingPort = some r) (hc : cryptCheck arity dp sp c r.operands s = .ok rk)
    (hn : r.operands.blockCount = 0) : execCrypt eng dir arity dp sp c s = .next (s.withStatus r .ok) := by
  simp only [execCrypt, hr, hc, if_pos hn, complete, report_eq_withStatus hr]

theorem execCrypt_of_blocks (hr : s.issuingPort = some r) (hc : cryptCheck arity dp sp c r.operands s = .ok rk)
    (hn : r.operands.blockCount ≠ 0) :
    execCrypt eng dir arity dp sp c s = .next ((cryptBuffers eng dir rk r.operands s).withStatus r .ok) := by
  have hr' : (cryptBuffers eng dir rk r.operands s).issuingPort = some r := by rw [cryptBuffers_frame]; exact hr
  simp only [execCrypt, hr, hc, if_neg hn, complete, report_eq_withStatus hr']

/-- A command of a port that exists completes, with or without an error (R212, R246). -/
theorem exec_completes (hr : s.issuingPort = some r) (i : Instr) : ∃ t, exec i s = .next t := by
  obtain ⟨sp, c, rfl⟩ | ⟨arity, dir, eng, dp, sp, c, rfl⟩ := instr_cases i
  · cases he : keyexpError sp c r.operands s.cfg with
    | some e => exact ⟨_, execKeyexp_of_error hr he⟩
    | none => exact ⟨_, execKeyexp_of_ok hr he⟩
  · rw [exec_cryptInstr]
    cases hc : cryptCheck arity dp sp c r.operands s with
    | error e => exact ⟨_, execCrypt_of_error hr hc⟩
    | ok rk =>
      by_cases hn : r.operands.blockCount = 0
      · exact ⟨_, execCrypt_of_empty hr hc hn⟩
      · exact ⟨_, execCrypt_of_blocks hr hc hn⟩

/-- No command touches the configuration, the hosts' side or the model's own fields. -/
theorem exec_sameHostSide {i : Instr} (h : exec i s = .next t) : s.SameHostSide t := by
  obtain ⟨sp, c, rfl⟩ | ⟨arity, dir, eng, dp, sp, c, rfl⟩ := instr_cases i
  · obtain ⟨r, -, ⟨e, -, rfl⟩ | ⟨-, rfl⟩⟩ := execKeyexp_cases h
    · exact ⟨rfl, rfl, rfl, rfl, rfl⟩
    · exact ⟨rfl, rfl, rfl, rfl, rfl⟩
  · rw [exec_cryptInstr] at h
    obtain ⟨r, -, ⟨-, rfl⟩ | ⟨rk, -, ⟨-, rfl⟩ | ⟨-, rfl⟩⟩⟩ := execCrypt_cases h
    · exact ⟨rfl, rfl, rfl, rfl, rfl⟩
    · exact ⟨rfl, rfl, rfl, rfl, rfl⟩
    · rw [cryptBuffers_frame]
      exact ⟨rfl, rfl, rfl, rfl, rfl⟩

/-- The lengths that pass the checks are whole blocks. -/
theorem dlen_eq_of_goodLengths {o : BufferOperands} (h : o.GoodLengths arity) : o.dlen = 16 * o.blockCount := by
  cases arity <;> obtain ⟨h1, h2⟩ := h <;> simp only [BufferOperands.blockCount] <;> omega

/-- A destination that passed the checks lies in `BUF`, so writing it keeps the invariant. -/
theorem inv_cryptBuffers (hs : s.Inv) {o : BufferOperands} (hc : cryptCheck arity dp sp c o s = .ok rk)
    (hn : o.blockCount ≠ 0) : (cryptBuffers eng dir rk o s).Inv := by
  obtain ⟨-, -, -, hlen, -, hdst, -⟩ := (cryptCheck_ok_iff ..).1 hc
  have hdlen := dlen_eq_of_goodLengths hlen
  rw [cryptBuffers_eq_memWrite eng dir rk o hs]
  refine inv_memWrite (inv_prepareTransform hs eng) ?_
  rw [length_cryptOutput, prepareTransform_frame]
  show o.dst + 16 * o.blockCount ≤ s.cfg.bufBytes
  omega

theorem exec_keeps_inv (hs : s.Inv) {i : Instr} (h : exec i s = .next t) : t.Inv := by
  obtain ⟨sp, c, rfl⟩ | ⟨arity, dir, eng, dp, sp, c, rfl⟩ := instr_cases i
  · obtain ⟨r, -, ⟨e, -, rfl⟩ | ⟨-, rfl⟩⟩ := execKeyexp_cases h
    · exact inv_withStatus hs r _
    · exact inv_withStatus (inv_setSlot hs c _) r _
  · rw [exec_cryptInstr] at h
    obtain ⟨r, -, ⟨-, rfl⟩ | ⟨rk, hc, ⟨-, rfl⟩ | ⟨hn, rfl⟩⟩⟩ := execCrypt_cases h
    · exact inv_withStatus hs r _
    · exact inv_withStatus hs r _
    · exact inv_withStatus (inv_cryptBuffers hs hc hn) r _

end Commands

/-! ## The host actions and the step -/

section Steps

variable {s t : State}

/-- Everything a command word can do: it reports `IllegalCommand`, or it runs the decoded command. -/
theorem runCommand_cases {w : Word} (h : runCommand w s = .next t) :
    t = s.report .illegalCommand ∨ ∃ i, decode w = .ok i ∧ exec i s = .next t := by
  unfold runCommand at h
  split at h
  · exact .inl (by injection h with h; exact h.symm)
  · exact .inr ⟨_, ‹_›, h⟩

theorem runCommand_completes (hs : s.Inv) (w : Word) : ∃ t, runCommand w s = .next t := by
  unfold runCommand
  split
  · exact ⟨_, rfl⟩
  · obtain ⟨r, hr⟩ := issuingPort_of_inv hs
    exact exec_completes hr _

theorem runCommand_keeps_inv (hs : s.Inv) {w : Word} (h : runCommand w s = .next t) : t.Inv := by
  obtain rfl | ⟨i, -, hi⟩ := runCommand_cases h
  · exact inv_report hs _
  · exact exec_keeps_inv hs hi

theorem runCommand_sameHostSide {w : Word} (h : runCommand w s = .next t) : s.SameHostSide t := by
  obtain rfl | ⟨i, -, hi⟩ := runCommand_cases h
  · exact ⟨rfl, rfl, rfl, rfl, rfl⟩
  · exact exec_sameHostSide hi

/-- The registers of a port are found exactly when the port exists. -/
theorem port_lt_of_getElem? (hs : s.Inv) {p : Nat} {r : PortRegs} (hp : s.ports[p]? = some r) : p < s.cfg.nports :=
  hs.portCount ▸ (List.getElem?_eq_some_iff.1 hp).1

theorem getElem?_of_port_lt (hs : s.Inv) {p : Nat} (hp : p < s.cfg.nports) : ∃ r, s.ports[p]? = some r :=
  ⟨_, List.getElem?_eq_getElem (hs.portCount.symm ▸ hp)⟩

theorem getElem?_of_port_ge (hs : s.Inv) {p : Nat} (hp : s.cfg.nports ≤ p) : s.ports[p]? = none :=
  List.getElem?_eq_none (hs.portCount.symm ▸ hp)

theorem perform_keeps_inv (hs : s.Inv) {a : HostAction} (h : perform a s = .next t) : t.Inv := by
  obtain ⟨p, w, r, -, hp, hrun⟩ | ⟨p, n, w, r, -, -, -, rfl⟩ | ⟨p, n, r, -, -, rfl⟩ | ⟨x, b, -, hx, rfl⟩ |
    ⟨x, -, -, rfl⟩ | ⟨-, rfl⟩ := perform_cases h
  · exact runCommand_keeps_inv (inv_acceptCommand hs (port_lt_of_getElem? hs hp) r w) hrun
  · exact inv_setPort hs _ _
  · exact inv_reply hs _
  · exact inv_memWrite hs hx
  · exact inv_reply hs _
  · exact inv_resetCore hs

/-- No action changes the configuration, and none but its own taking-off changes what is pending. -/
theorem perform_keeps_cfg_and_script {a : HostAction} (h : perform a s = .next t) :
    t.cfg = s.cfg ∧ t.script = s.script := by
  obtain ⟨p, w, r, -, -, hrun⟩ | ⟨p, n, w, r, -, -, -, rfl⟩ | ⟨p, n, r, -, -, rfl⟩ | ⟨x, b, -, -, rfl⟩ |
    ⟨x, -, -, rfl⟩ | ⟨-, rfl⟩ := perform_cases h
  · obtain ⟨hcfg, -, -, hscript, -⟩ := runCommand_sameHostSide hrun
    exact ⟨hcfg, hscript⟩
  all_goals exact ⟨rfl, rfl⟩

/-- Every enabled action completes (R11, R246). -/
theorem perform_completes (hs : s.Inv) {a : HostAction} (ha : a.Enabled s.cfg) : ∃ t, perform a s = .next t := by
  cases a with
  | regWrite p n w =>
    obtain ⟨r, hr⟩ := getElem?_of_port_lt hs ha
    by_cases hn : n = 0
    · subst hn
      obtain ⟨t, ht⟩ := runCommand_completes (inv_acceptCommand hs ha r w) w
      exact ⟨t, (regWrite_zero w hr).trans ht⟩
    · exact ⟨_, regWrite_other w hn hr⟩
  | regRead p n =>
    obtain ⟨r, hr⟩ := getElem?_of_port_lt hs ha
    exact ⟨s.reply (.reg p n (readRegister s r n)), by simp only [perform, regRead, hr]⟩
  | bufWrite x b => exact ⟨_, if_pos ha⟩
  | bufRead x => exact ⟨_, if_pos ha⟩
  | reset => exact ⟨_, rfl⟩

theorem step_of_script_nil (h : s.script = []) : step s = .next s := by
  unfold step; rw [h]

theorem step_keeps_inv (hs : s.Inv) (h : step s = .next t) : t.Inv := by
  obtain ⟨-, rfl⟩ | ⟨a, rest, -, ha⟩ := step_cases h
  · exact hs
  · exact perform_keeps_inv (inv_withScript hs rest) ha

theorem step_keeps_scriptEnabled (he : s.ScriptEnabled) (h : step s = .next t) : t.ScriptEnabled := by
  obtain ⟨-, rfl⟩ | ⟨a, rest, hscript, ha⟩ := step_cases h
  · exact he
  · obtain ⟨hcfg, hrest⟩ := perform_keeps_cfg_and_script ha
    intro b hb
    rw [hrest, withScript_script] at hb
    rw [hcfg, withScript_cfg]
    exact he b (hscript ▸ List.mem_cons_of_mem a hb)

theorem step_completes (hs : s.Inv) (he : s.ScriptEnabled) : ∃ t, step s = .next t := by
  cases hscript : s.script with
  | nil => exact ⟨s, step_of_script_nil hscript⟩
  | cons a rest =>
    rw [step_eq_perform hscript]
    exact perform_completes (inv_withScript hs rest) (he a (hscript ▸ List.mem_cons_self))

/-- One step from a good state with enabled actions: it completes in such a state. -/
theorem step_keeps_good (hs : s.Inv) (he : s.ScriptEnabled) : ∃ t, step s = .next t ∧ t.Inv ∧ t.ScriptEnabled :=
  let ⟨t, ht⟩ := step_completes hs he
  ⟨t, ht, step_keeps_inv hs ht, step_keeps_scriptEnabled he ht⟩

/-- The same for any number of steps. -/
theorem run_keeps_good (n : Nat) (hs : s.Inv) (he : s.ScriptEnabled) :
    ∃ t, Sys2Proof.core.run n s = .next t ∧ t.Inv ∧ t.ScriptEnabled := by
  induction n generalizing s with
  | zero => exact ⟨s, rfl, hs, he⟩
  | succ n ih =>
    obtain ⟨u, hu, hinv, hen⟩ := step_keeps_good hs he
    rw [run_succ n hu]
    exact ih hinv hen

end Steps

/-! ## The obligations of `00_scope.md` -/

/-- Settles O60: an enabled action completes, and it keeps the invariant, the configuration and the rest of the script. -/
theorem enabledStepKeepsGood : Obligations.EnabledStepKeepsGood :=
  fun _ hs he => step_keeps_good hs he

/-- Settles O38, by the three outcomes of a crypt command: the first two do not name the engine, and in the third every engine
writes the same bytes after the guard. -/
theorem enginesInterchangeable : Obligations.EnginesInterchangeable := by
  intro s arity dir eng dp sp c hs
  obtain ⟨r, hr⟩ := issuingPort_of_inv hs
  simp only [exec_cryptInstr]
  cases hc : cryptCheck arity dp sp c r.operands s with
  | error e => exact ⟨_, _, execCrypt_of_error hr hc, execCrypt_of_error hr hc, rfl⟩
  | ok rk =>
    by_cases hn : r.operands.blockCount = 0
    · exact ⟨_, _, execCrypt_of_empty hr hc hn, execCrypt_of_empty hr hc hn, rfl⟩
    · refine ⟨_, _, execCrypt_of_blocks hr hc hn, execCrypt_of_blocks hr hc hn, ?_⟩
      rw [cryptBuffers_eq_memWrite .ref dir rk _ hs, cryptBuffers_eq_memWrite eng dir rk _ hs]
      exact congrArg (fun x => (x.memWrite r.operands.dst (s.cryptOutput dir rk r.operands)).withStatus r .ok)
        (prepareTransform_forget eng s).symm

/-- Settles O56, by induction on the number of steps: the good states with enabled actions are closed under the step. -/
theorem enabledScriptsRunSafely : Obligations.EnabledScriptsRunSafely := fun _ n hs he =>
  let ⟨t, ht, _⟩ := run_keeps_good n hs he
  ⟨t, ht⟩

/-- Settles O19, by running the key schedule and the reference rounds. -/
theorem knownAnswerVector : Obligations.KnownAnswerVector := by
  refine ⟨?_, ?_, ?_⟩
  · decide +kernel
  · decide +kernel
  · decide +kernel

/-- Settles O50: the registers of a port that does not exist are not found. -/
theorem absentPortRefused : Obligations.AbsentPortRefused := by
  intro s p n v rest hs hp hscript
  have hnone : (s.withScript rest).ports[p]? = none := getElem?_of_port_ge hs hp
  obtain h | h := hscript
  · simp only [step_eq_perform h, perform, regWrite, hnone]
  · simp only [step_eq_perform h, perform, regRead, hnone]

/-- Settles O51: an empty script is the first branch of the step. -/
theorem idleCoreStays : Obligations.IdleCoreStays := fun _ => step_of_script_nil

end Sys2Proof.Machine

/-! # Proofs: the registers, the round keys and the table quad

The laws the obligations of `10_state.md` rest on: what the read-only registers show, the step of each register access, what a
command does to the ports, the slots and the tables. The obligations follow. -/

namespace Sys2Proof.Machine

/-! ## The register words -/

/-- A read does not depend on what is pending. -/
@[simp] theorem readRegister_withScript (s : State) (rest : List HostAction) (r : PortRegs) (n : Fin 256) :
    readRegister (s.withScript rest) r n = readRegister s r n := rfl

/-- Numbers 0 to 4 read what is stored in the port (R22, R23, R24). -/
theorem readRegister_operand (s : State) (r : PortRegs) {n : Fin 256} (hn : n.val ≤ 4) : readRegister s r n =
    if n.val = 0 then r.cmd else if n.val = 1 then r.src else if n.val = 2 then r.slen else
      if n.val = 3 then r.dst else r.dlen := by
  obtain ⟨n, hlt⟩ := n
  dsimp only at hn ⊢
  interval_cases n <;> rfl

/-- Reserved numbers read 0 (R29). -/
theorem readRegister_reserved (s : State) (r : PortRegs) {n : Fin 256} (hn : 10 ≤ n.val) : readRegister s r n = 0 := by
  unfold readRegister
  split
  case h_11 => rfl
  all_goals omega

/-- Read-only and reserved numbers ignore a write (R29). -/
theorem writeRegister_ignored (r : PortRegs) {n : Fin 256} (v : Word) (hn : 5 ≤ n.val) : r.writeRegister n v = r := by
  unfold PortRegs.writeRegister
  split
  case h_5 => rfl
  all_goals omega

/-- No register write but a `CMD` write reaches `STATUS` (R25). -/
@[simp] theorem statusWord_writeRegister (r : PortRegs) (n : Fin 256) (v : Word) :
    (r.writeRegister n v).statusWord = r.statusWord := by
  unfold PortRegs.writeRegister
  split <;> rfl

theorem getLsbD_statusWord_done (r : PortRegs) : r.statusWord.getLsbD 31 = r.done := by
  rw [PortRegs.statusWord, BitVec.getLsbD_append, BitVec.getLsbD_append]
  simp

theorem extractLsb'_statusWord_zeros (r : PortRegs) : r.statusWord.extractLsb' 2 29 = 0 := by
  rw [PortRegs.statusWord, BitVec.extractLsb'_append_eq_of_le (by decide)]
  exact BitVec.extractLsb'_append_eq_right

theorem extractLsb'_statusWord_code (r : PortRegs) : r.statusWord.extractLsb' 0 2 = r.err.toBits :=
  BitVec.extractLsb'_append_eq_right

theorem getLsbD_tstatWord_trdy (s : State) : s.tstatWord.getLsbD 0 = s.trdy := by
  rw [State.tstatWord, BitVec.getLsbD_append]
  simp

theorem extractLsb'_tstatWord_zeros (s : State) : s.tstatWord.extractLsb' 1 31 = 0 :=
  BitVec.extractLsb'_append_eq_left

theorem tstatWord_of_not_trdy {s : State} (h : s.trdy = false) : s.tstatWord = 0 := by
  rw [State.tstatWord, h]
  decide

/-! The four bytes of a word put together most significant byte first (R13). -/

theorem extractLsb'_be32_lane0 (b0 b1 b2 b3 : Byte) : (be32 b0 b1 b2 b3).extractLsb' 24 8 = b0 :=
  BitVec.extractLsb'_append_eq_of_le (by decide) |>.trans <| BitVec.extractLsb'_append_eq_of_le (by decide) |>.trans
    BitVec.extractLsb'_append_eq_left

theorem extractLsb'_be32_lane1 (b0 b1 b2 b3 : Byte) : (be32 b0 b1 b2 b3).extractLsb' 16 8 = b1 :=
  BitVec.extractLsb'_append_eq_of_le (by decide) |>.trans <| BitVec.extractLsb'_append_eq_of_le (by decide) |>.trans
    BitVec.extractLsb'_append_eq_right

theorem extractLsb'_be32_lane2 (b0 b1 b2 b3 : Byte) : (be32 b0 b1 b2 b3).extractLsb' 8 8 = b2 :=
  BitVec.extractLsb'_append_eq_of_le (by decide) |>.trans BitVec.extractLsb'_append_eq_right

theorem extractLsb'_be32_lane3 (b0 b1 b2 b3 : Byte) : (be32 b0 b1 b2 b3).extractLsb' 0 8 = b3 :=
  BitVec.extractLsb'_append_eq_right

/-- `CFG` has one byte per field (R27). -/
theorem cfgWord_eq_be32 (cfg : Config) :
    cfgWord cfg = be32 1 (BitVec.ofNat 8 cfg.nports) (BitVec.ofNat 8 cfg.nctx) (BitVec.ofNat 8 cfg.lanes) := rfl

theorem testBit_flagsToNat (bs : List Bool) (i : Nat) : (flagsToNat bs).testBit i = bs.getD i false := by
  induction bs generalizing i with
  | nil => simp [flagsToNat]
  | cons b bs ih =>
    cases i with
    | zero => cases b <;> simp [flagsToNat, Nat.add_mod]
    | succ i =>
      have hdiv : (b.toNat + 2 * flagsToNat bs) / 2 = flagsToNat bs := by cases b <;> simp; omega
      simp [flagsToNat, Nat.testBit_succ, hdiv, ih]

theorem ctxValid_iff (s : State) (c : Nat) :
    s.ctxValid c = true ↔ c < s.cfg.nctx ∧ ∃ rk, s.slots[c]? = some (some rk) := by
  simp [State.ctxValid, State.context, Option.isSome_iff_exists, Option.join_eq_some_iff]

/-- The same in terms of the list of valid bits alone. -/
theorem ctxValid_iff_isSome (s : State) (c : Nat) :
    s.ctxValid c = true ↔ c < s.cfg.nctx ∧ (s.slots.map Option.isSome)[c]? = some true := by
  simp [ctxValid_iff, Option.isSome_iff_exists, and_comm]

/-- Bit `b` of `CTXV` is the valid bit of slot `b`; a slot that does not exist has none (R28). -/
theorem getLsbD_ctxvWord (s : State) (b : Nat) : s.ctxvWord.getLsbD b = (decide (b < 32) && s.ctxValid b) := by
  rw [State.ctxvWord, BitVec.getLsbD_ofNat, testBit_flagsToNat]
  by_cases hb : b < s.cfg.nctx
  · simp [hb]
  · have hinvalid : s.ctxValid b = false := by simp [← Bool.not_eq_true, ctxValid_iff, hb]
    simp [hb, hinvalid]

/-- The registers show which slots are valid, and nothing else of them (R28, R33). -/
theorem readRegister_congr_slots (s : State) (sl : List (Option RoundKeys)) (r : PortRegs) (n : Fin 256)
    (hsl : sl.map Option.isSome = s.slots.map Option.isSome) :
    readRegister { s with slots := sl } r n = readRegister s r n := by
  have hvalid : State.ctxValid { s with slots := sl } = s.ctxValid := by
    funext c
    rw [Bool.eq_iff_iff, ctxValid_iff_isSome, ctxValid_iff_isSome, hsl]
  have hctxv : State.ctxvWord { s with slots := sl } = s.ctxvWord := by simp only [State.ctxvWord, hvalid]
  unfold readRegister
  split
  case h_8 => exact hctxv
  all_goals rfl

/-! ## The step of a register or buffer access -/

section Accesses

variable {s t : State} {p : Nat} {r : PortRegs} {n : Fin 256} {v : Word} {rest : List HostAction}

theorem perform_cmdWrite_iff : perform (.regWrite p 0 v) s = .next t ↔
    ∃ r, s.ports[p]? = some r ∧ runCommand v (s.acceptCommand p r v) = .next t := by
  cases h : s.ports[p]? <;> simp [perform, regWrite, h]

theorem perform_regRead_iff : perform (.regRead p n) s = .next t ↔
    ∃ r, s.ports[p]? = some r ∧ s.reply (.reg p n (readRegister s r n)) = t := by
  cases h : s.ports[p]? <;> simp [perform, regRead, h]

theorem perform_bufRead_iff {a : Nat} : perform (.bufRead a) s = .next t ↔
    a < s.cfg.bufBytes ∧ s.reply (.buf a (s.bufByte a)) = t := by
  by_cases h : a < s.cfg.bufBytes <;> simp [perform, bufRead, h]

theorem step_regRead (hp : s.ports[p]? = some r) (hs : s.script = .regRead p n :: rest) :
    step s = .next { s with script := rest, replies := s.replies ++ [.reg p n (readRegister s r n)] } :=
  (step_eq_perform hs).trans (perform_regRead_iff.2 ⟨r, hp, rfl⟩)

theorem step_regWrite (hp : s.ports[p]? = some r) (hn : n ≠ 0) (hs : s.script = .regWrite p n v :: rest) :
    step s = .next { s with script := rest, ports := s.ports.set p (r.writeRegister n v) } :=
  (step_eq_perform hs).trans (regWrite_other v hn hp)

/-- A write to a read-only or reserved register changes nothing (R29). -/
theorem step_regWrite_ignored (hp : s.ports[p]? = some r) (hn : 5 ≤ n.val) (hs : s.script = .regWrite p n v :: rest) :
    step s = .next { s with script := rest } := by
  have hn0 : n ≠ 0 := by rintro rfl; exact absurd hn (by decide)
  have hset : s.ports.set p r = s.ports := by
    obtain ⟨hlt, rfl⟩ := List.getElem?_eq_some_iff.1 hp
    exact List.set_getElem_self hlt
  rw [step_regWrite hp hn0 hs, writeRegister_ignored r v hn, hset]

/-- A `CMD` write runs the word as a command of its port (R24). -/
theorem step_cmdWrite (hp : s.ports[p]? = some r) (hs : s.script = .regWrite p 0 v :: rest) :
    step s = runCommand v ((s.withScript rest).acceptCommand p r v) :=
  (step_eq_perform hs).trans (regWrite_zero v hp)

theorem step_keeps_cfg (h : step s = .next t) : t.cfg = s.cfg := by
  obtain ⟨-, rfl⟩ | ⟨a, rest, -, ha⟩ := step_cases h
  · rfl
  · exact (perform_keeps_cfg_and_script ha).1

end Accesses

/-! ## What a command does to the ports, the slots and the tables -/

section Effects

variable {s t : State} {r : PortRegs} {w : Word}

theorem issuingPort_acceptCommand {p : Nat} (hp : s.ports[p]? = some r) :
    (s.acceptCommand p r w).issuingPort = some { r with cmd := w } := by
  have hlt : p < s.ports.length := (List.getElem?_eq_some_iff.1 hp).1
  simp [State.issuingPort, hlt]

/-- Every command ends with its code in `STATUS` of its port, and changes no other register (R25). -/
theorem exec_ports {i : Instr} (hr : s.issuingPort = some r) (h : exec i s = .next t) :
    ∃ k, t.ports = s.ports.set s.issuer (r.withResult k) := by
  obtain ⟨sp, c, rfl⟩ | ⟨arity, dir, eng, dp, sp, c, rfl⟩ := instr_cases i
  · obtain ⟨r', hr', hcases⟩ := execKeyexp_cases h
    obtain rfl : r = r' := Option.some.inj (hr.symm.trans hr')
    obtain ⟨e, -, rfl⟩ | ⟨-, rfl⟩ := hcases
    · exact ⟨_, rfl⟩
    · exact ⟨_, rfl⟩
  · rw [exec_cryptInstr] at h
    obtain ⟨r', hr', hcases⟩ := execCrypt_cases h
    obtain rfl : r = r' := Option.some.inj (hr.symm.trans hr')
    obtain ⟨-, rfl⟩ | ⟨rk, -, ⟨-, rfl⟩ | ⟨-, rfl⟩⟩ := hcases
    · exact ⟨_, rfl⟩
    · exact ⟨_, rfl⟩
    · exact ⟨.ok, by rw [cryptBuffers_frame]; rfl⟩

/-- The same for any word, legal or not (R208). -/
theorem runCommand_ports (hr : s.issuingPort = some r) (h : runCommand w s = .next t) :
    ∃ k, t.ports = s.ports.set s.issuer (r.withResult k) := by
  obtain rfl | ⟨i, -, hi⟩ := runCommand_cases h
  · exact ⟨_, by rw [report_eq_withStatus hr]; rfl⟩
  · exact exec_ports hr hi

/-- A `CMD` write stores the word and the result in the registers of its port, and reaches no other port. -/
theorem cmdWrite_ports {p : Nat} (hp : s.ports[p]? = some r) (h : runCommand w (s.acceptCommand p r w) = .next t) :
    ∃ k, t.ports = s.ports.set p { r with cmd := w, done := true, err := k } := by
  obtain ⟨k, hk⟩ := runCommand_ports (issuingPort_acceptCommand hp) h
  exact ⟨k, by rw [hk, acceptCommand_ports, acceptCommand_issuer, List.set_set]; rfl⟩

/-- Only a `KEYEXP` without an error writes a slot, and it writes its own (R32). -/
theorem exec_slots {i : Instr} (h : exec i s = .next t) : t.slots = s.slots ∨
    ∃ c r, i = .keyexp true c ∧ s.issuingPort = some r ∧
      t = (s.setSlot c (expandKey (s.memRead r.operands.src 16))).withStatus r .ok := by
  obtain ⟨sp, c, rfl⟩ | ⟨arity, dir, eng, dp, sp, c, rfl⟩ := instr_cases i
  · obtain ⟨r, hr, ⟨e, -, rfl⟩ | ⟨hok, ht⟩⟩ := execKeyexp_cases h
    · exact .inl rfl
    · obtain ⟨rfl, -⟩ := (keyexpError_eq_none_iff ..).1 hok
      exact .inr ⟨c, r, rfl, hr, ht⟩
  · rw [exec_cryptInstr] at h
    obtain ⟨r, -, ⟨-, rfl⟩ | ⟨rk, -, ⟨-, rfl⟩ | ⟨-, rfl⟩⟩⟩ := execCrypt_cases h
    · exact .inl rfl
    · exact .inl rfl
    · exact .inl (by rw [cryptBuffers_frame]; rfl)

/-- What any step but `Reset` may do to the tables: nothing, or build them all at once where they were not built (R35). -/
def State.TablesKeptOrBuilt (s t : State) : Prop :=
  (t.tables = s.tables ∧ t.tbuilds = s.tbuilds) ∨
    (s.trdy = false ∧ t.tables = some builtTables ∧ t.tbuilds = s.tbuilds + 1)

theorem prepareTransform_tables (eng : Engine) (s : State) : s.TablesKeptOrBuilt (prepareTransform eng s).2 := by
  unfold prepareTransform
  split
  · cases h : s.tables with
    | some t => exact .inl (by simp [ensureTables, h])
    | none => exact .inr (by simp [ensureTables, State.trdy, h])
  · exact .inl ⟨rfl, rfl⟩

theorem exec_tables {i : Instr} (h : exec i s = .next t) : s.TablesKeptOrBuilt t := by
  obtain ⟨sp, c, rfl⟩ | ⟨arity, dir, eng, dp, sp, c, rfl⟩ := instr_cases i
  · obtain ⟨r, -, ⟨e, -, rfl⟩ | ⟨-, rfl⟩⟩ := execKeyexp_cases h
    · exact .inl ⟨rfl, rfl⟩
    · exact .inl ⟨rfl, rfl⟩
  · rw [exec_cryptInstr] at h
    obtain ⟨r, -, ⟨-, rfl⟩ | ⟨rk, -, ⟨-, rfl⟩ | ⟨-, rfl⟩⟩⟩ := execCrypt_cases h
    · exact .inl ⟨rfl, rfl⟩
    · exact .inl ⟨rfl, rfl⟩
    · rw [cryptBuffers_frame]
      exact prepareTransform_tables eng s

theorem runCommand_tables (h : runCommand w s = .next t) : s.TablesKeptOrBuilt t := by
  obtain rfl | ⟨i, -, hi⟩ := runCommand_cases h
  · exact .inl ⟨rfl, rfl⟩
  · exact exec_tables hi

end Effects

/-! ## What one step does to `STATUS`, the tables and the slots -/

/-- A list entry written by `set` is seen at its own place, and only in the list. -/
theorem eq_and_lt_of_getElem?_set_ne {α : Type} {l : List α} {i j : Nat} {a : α} (h : (l.set i a)[j]? ≠ l[j]?) :
    i = j ∧ j < l.length := by
  rw [List.getElem?_set] at h
  grind

section StepEffects

variable {s t : State}

/-- `STATUS` of a port keeps its value in every step that is neither a command of the port nor `Reset` (R25). -/
theorem perform_keeps_status {a : HostAction} {p : Nat} (h : perform a s = .next t) (hcmd : ∀ w, a ≠ .regWrite p 0 w)
    (hreset : a ≠ .reset) : (t.ports[p]?).map (·.statusWord) = (s.ports[p]?).map (·.statusWord) := by
  obtain ⟨q, w, r, rfl, hq, hrun⟩ | ⟨q, n, w, r, -, -, hq, rfl⟩ | ⟨q, n, r, -, -, rfl⟩ | ⟨x, b, -, -, rfl⟩ |
    ⟨x, -, -, rfl⟩ | ⟨rfl, -⟩ := perform_cases h
  · have hne : q ≠ p := fun hqp => hcmd w (hqp ▸ rfl)
    obtain ⟨k, hk⟩ := cmdWrite_ports hq hrun
    rw [hk, List.getElem?_set_ne hne]
  · rw [setPort_ports]
    by_cases hqp : q = p
    · subst hqp
      have hlt : q < s.ports.length := (List.getElem?_eq_some_iff.1 hq).1
      simp [List.getElem?_set_self hlt, hq]
    · rw [List.getElem?_set_ne hqp]
  · rfl
  · rfl
  · rfl
  · exact absurd rfl hreset

/-- Tables are built by a command and are else kept, `Reset` apart (R35). -/
theorem perform_tables {a : HostAction} (h : perform a s = .next t) (hreset : a ≠ .reset) :
    t.tables = s.tables ∨ s.trdy = false ∧ t.tables = some builtTables ∧ t.tbuilds = s.tbuilds + 1 ∧
      ∃ p w, a = .regWrite p 0 w := by
  obtain ⟨p, w, r, ha, -, hrun⟩ | ⟨p, n, w, r, -, -, -, rfl⟩ | ⟨p, n, r, -, -, rfl⟩ | ⟨x, b, -, -, rfl⟩ |
    ⟨x, -, -, rfl⟩ | ⟨rfl, -⟩ := perform_cases h
  · obtain ⟨hkept, -⟩ | ⟨htrdy, htables, htbuilds⟩ := runCommand_tables hrun
    · exact .inl hkept
    · exact .inr ⟨htrdy, htables, htbuilds, p, w, ha⟩
  · exact .inl rfl
  · exact .inl rfl
  · exact .inl rfl
  · exact .inl rfl
  · exact absurd rfl hreset

theorem step_tables (h : step s = .next t) (hreset : ∀ rest, s.script ≠ .reset :: rest) :
    t.tables = s.tables ∨ s.trdy = false ∧ t.tables = some builtTables ∧ t.tbuilds = s.tbuilds + 1 ∧
      ∃ p w rest, s.script = .regWrite p 0 w :: rest := by
  obtain ⟨-, rfl⟩ | ⟨a, rest, hs, ha⟩ := step_cases h
  · exact .inl rfl
  obtain hkept | ⟨htrdy, htables, htbuilds, p, w, rfl⟩ := perform_tables ha fun hr => hreset rest (hr ▸ hs)
  · exact .inl hkept
  · exact .inr ⟨htrdy, htables, htbuilds, p, w, rest, hs⟩

/-- A slot changes by `Reset`, or by a `CMD` write that runs a `KEYEXP` without an error (R32). -/
theorem perform_slots {a : HostAction} (h : perform a s = .next t) : t.slots = s.slots ∨ (a = .reset ∧ t = resetCore s) ∨
    ∃ p w r c, a = .regWrite p 0 w ∧ s.ports[p]? = some r ∧ decode w = .ok (.keyexp true c) ∧
      t.slots = s.slots.set c (some (expandKey (s.memRead r.src.toNat 16))) ∧
      t.ports = s.ports.set p { r with cmd := w, done := true, err := .ok } := by
  obtain ⟨p, w, r, rfl, hp, hrun⟩ | ⟨p, n, w, r, -, -, -, rfl⟩ | ⟨p, n, r, -, -, rfl⟩ | ⟨x, b, -, -, rfl⟩ |
    ⟨x, -, -, rfl⟩ | ⟨rfl, rfl⟩ := perform_cases h
  · obtain rfl | ⟨i, hi, hexec⟩ := runCommand_cases hrun
    · exact .inl rfl
    · obtain hkept | ⟨c, r', rfl, hr', rfl⟩ := exec_slots hexec
      · exact .inl hkept
      · obtain rfl : { r with cmd := w } = r' := Option.some.inj ((issuingPort_acceptCommand hp).symm.trans hr')
        exact .inr (.inr ⟨p, w, r, c, rfl, hp, hi, rfl, List.set_set ..⟩)
  · exact .inl rfl
  · exact .inl rfl
  · exact .inl rfl
  · exact .inl rfl
  · exact .inr (.inl ⟨rfl, rfl⟩)

end StepEffects

/-! ## The state after reset -/

theorem ctxValid_initial (cfg : Config) (e c : Nat) : (State.initial cfg e).ctxValid c = false := by
  rw [← Bool.not_eq_true, ctxValid_iff]
  rintro ⟨-, rk, h⟩
  simp [List.getElem?_replicate] at h

theorem ctxvWord_initial (cfg : Config) (e : Nat) : (State.initial cfg e).ctxvWord = 0 :=
  BitVec.eq_of_getLsbD_eq fun b _ => by simp [getLsbD_ctxvWord, ctxValid_initial]

/-- Registers 0 to 7 read 0 (R40). -/
theorem readRegister_initial (cfg : Config) (e : Nat) {n : Fin 256} (hn : n.val ≤ 7) :
    readRegister (State.initial cfg e) PortRegs.zero n = 0 := by
  unfold readRegister
  split
  case h_8 => exact ctxvWord_initial cfg e
  case h_9 | h_10 => omega
  case h_7 => exact tstatWord_of_not_trdy rfl
  all_goals rfl

theorem inv_initial {cfg : Config} (hcfg : cfg.wf) (e : Nat) : (State.initial cfg e).Inv where
  cfgWf := hcfg
  portCount := List.length_replicate
  slotCount := List.length_replicate
  tablesBuilt := fun _ h => nomatch h
  buildsOnce := rfl
  bufWf := List.Pairwise.nil
  bufInRange := fun _ h => nomatch h
  issuerIsPort := by
    obtain ⟨-, -, ⟨hports, -⟩, -⟩ := hcfg
    exact hports

/-! ## The obligations of `10_state.md` -/

/-- Settles O55, by the inversion of the step: each action's update keeps the invariant. -/
theorem stepKeepsInvariant : Obligations.StepKeepsInvariant := fun _ _ hs h => step_keeps_inv hs h

/-- Settles O42: a command ends with its result in `STATUS` of its port, and no other action but `Reset` writes there. -/
theorem statusRegister : Obligations.StatusRegister := by
  refine ⟨fun r => ⟨getLsbD_statusWord_done r, extractLsb'_statusWord_zeros r, ?_⟩, ?_, ?_, ?_⟩
  · rw [extractLsb'_statusWord_code]
    cases r.err <;> rfl
  · intro s t p w rest hs h
    rw [step_eq_perform hs] at h
    obtain ⟨r, hp, hrun⟩ := perform_cmdWrite_iff.1 h
    obtain ⟨k, hk⟩ := cmdWrite_ports hp hrun
    exact ⟨{ r with cmd := w, done := true, err := k },
      by rw [hk, List.getElem?_set_self (List.getElem?_eq_some_iff.1 hp).1], rfl⟩
  · intro s t p h hcmd hreset
    obtain ⟨-, rfl⟩ | ⟨a, rest, hs, ha⟩ := step_cases h
    · rfl
    · have hkept := perform_keeps_status (p := p) ha (fun w hw => hcmd w rest (hw ▸ hs)) fun hr => hreset rest (hr ▸ hs)
      exact hkept
  · exact fun s p r v rest hp => ⟨step_regWrite_ignored hp (by decide), step_regRead hp⟩

/-- Settles O46: bit `b` of the number made of the valid flags is flag `b`. -/
theorem contextValidRegister : Obligations.ContextValidRegister := by
  refine ⟨fun s r b _ hb hlen => ?_, fun s p r rest hp => ⟨step_regRead hp, fun v => step_regWrite_ignored hp (by decide)⟩⟩
  show s.ctxvWord.getLsbD b = true ↔ _
  rw [getLsbD_ctxvWord, decide_eq_true hb, Bool.true_and, ctxValid_iff, ← hlen, and_iff_right_iff_imp]
  exact fun ⟨rk, hrk⟩ => (List.getElem?_eq_some_iff.1 hrk).1

/-- Settles O47: each parameter fits its field in the ranges of R9. -/
theorem configurationRegisters : Obligations.ConfigurationRegisters := by
  refine ⟨fun s r hcfg => ?_, fun s t => step_keeps_cfg, fun s p r v rest hp => ?_⟩
  · obtain ⟨⟨-, hlanes⟩, ⟨-, hnctx⟩, ⟨-, hnports⟩, -, hbuf⟩ := hcfg
    have hcfgWord : readRegister s r 8 = _ := cfgWord_eq_be32 s.cfg
    have hbufsz : readRegister s r 9 = BitVec.ofNat 32 s.cfg.bufBytes := rfl
    rw [hcfgWord, hbufsz, extractLsb'_be32_lane0, extractLsb'_be32_lane1, extractLsb'_be32_lane2, extractLsb'_be32_lane3]
    exact ⟨Nat.mod_eq_of_lt (by omega), Nat.mod_eq_of_lt (by omega), Nat.mod_eq_of_lt (by omega), rfl,
      Nat.mod_eq_of_lt (by omega)⟩
  · rintro (hs | hs)
    · exact step_regWrite_ignored hp (by decide) hs
    · exact step_regWrite_ignored hp (by decide) hs

/-- Settles O57, by what one action does to the slots: setting slot `c` is seen at slot `c` only. -/
theorem slotWrittenOnlyByKeyexp : Obligations.SlotWrittenOnlyByKeyexp := by
  intro s t c hs h hne
  obtain ⟨-, rfl⟩ | ⟨a, rest, hscript, ha⟩ := step_cases h
  · exact absurd rfl hne
  obtain hkept | ⟨rfl, rfl⟩ | ⟨p, w, r, c', rfl, hp, hdec, hslots, hports⟩ := perform_slots ha
  · exact absurd (congrArg (·[c]?) hkept) hne
  · refine .inl ⟨rest, hscript, ?_⟩
    have hc : c < s.cfg.nctx := by
      by_contra hc
      have habsent : s.slots[c]? = none := List.getElem?_eq_none (hs.slotCount.symm ▸ Nat.le_of_not_lt hc)
      exact hne (by simp [habsent, hc])
    simp [hc]
  · rw [withScript_slots] at hslots
    obtain ⟨rfl, hc⟩ := eq_and_lt_of_getElem?_set_ne (hslots ▸ hne)
    refine .inr ⟨p, w, rest, r, { r with cmd := w, done := true, err := .ok }, hscript, hdec, hp, ?_, ?_, rfl⟩
    · rw [hslots, List.getElem?_set_self hc]
      rfl
    · rw [hports, List.getElem?_set_self (List.getElem?_eq_some_iff.1 hp).1]

/-- Settles O58: a command keeps the tables or builds them where they were not built; no other action touches them. -/
theorem tablesMonotone : Obligations.TablesMonotone := by
  intro s t _ h hreset
  obtain hkept | ⟨htrdy, htables, htbuilds, hcmd⟩ := step_tables h hreset
  · refine ⟨fun _ => hkept, fun hs ht => ?_⟩
    rw [trdy_congr hkept, hs] at ht
    cases ht
  · exact ⟨fun hs => absurd (htrdy.symm.trans hs) Bool.false_ne_true, fun _ _ => ⟨htables, htbuilds, hcmd⟩⟩

/-- Settles O59: a reply depends on the slots through their valid bits only. -/
theorem roundKeysNotReadable : Obligations.RoundKeysNotReadable := by
  rintro s t sl rest hsl (⟨p, n, hs⟩ | ⟨a, hs⟩) h
  · obtain ⟨r, hp, rfl⟩ := perform_regRead_iff.1 ((step_eq_perform hs).symm.trans h)
    exact ⟨_, step_regRead hp hs, by rw [readRegister_congr_slots s sl r n hsl]; rfl⟩
  · obtain ⟨ha, rfl⟩ := perform_bufRead_iff.1 ((step_eq_perform hs).symm.trans h)
    have hs' : ({ s with slots := sl } : State).script = .bufRead a :: rest := hs
    exact ⟨_, (step_eq_perform hs').trans (perform_bufRead_iff.2 ⟨ha, rfl⟩), rfl⟩

/-- Settles O6: the step of a `CMD` write, where the word decodes. -/
theorem stepRunsDecodedCommand : Obligations.StepRunsDecodedCommand := by
  intro s p r w i rest hs hp hdec
  rw [step_cmdWrite hp hs, runCommand, hdec]
  rfl

/-- Settles O43, by the step of a register write and of a register read. -/
theorem operandRegisters : Obligations.OperandRegisters := by
  intro s p r v rest hp
  refine ⟨step_regWrite hp (by decide), step_regWrite hp (by decide), step_regWrite hp (by decide),
    step_regWrite hp (by decide), fun n hs hn => ?_⟩
  rw [step_regRead hp hs, readRegister_operand s r hn]

/-- Settles O44: a write from number 5 on leaves the port as it was, and a read adds a reply and nothing else. -/
theorem reservedAndReadOnlyRegisters : Obligations.ReservedAndReadOnlyRegisters := fun s _ r _ _ hp =>
  ⟨fun _ hs hn => step_regWrite_ignored hp hn hs,
    fun hs => ⟨_, readRegister_reserved s r, step_regRead hp hs⟩⟩

/-- Settles O45: what a read of `TSTAT` returns does not name the port. -/
theorem tableStatusRegister : Obligations.TableStatusRegister := by
  intro s p r rest hp
  exact ⟨fun hs => ⟨s.tstatWord, getLsbD_tstatWord_trdy s, extractLsb'_tstatWord_zeros s, step_regRead hp hs⟩,
    fun v => step_regWrite_ignored hp (by decide)⟩

/-- Settles O53, by the reads of a core of any configuration right after reset. -/
theorem resetState : Obligations.ResetState :=
  ⟨fun _ hp => ⟨PortRegs.zero, List.getElem?_replicate_of_lt hp, fun _ hn => readRegister_initial _ _ hn⟩, rfl, rfl,
    ctxValid_initial _ _⟩

/-- Settles O54: the suggested configuration is in the ranges of R9, and a core of any such configuration starts good. -/
theorem invariantAtReset : Obligations.InvariantAtReset := inv_initial (by decide) 0

end Sys2Proof.Machine

/-! # Proofs: the byte order of blocks and the hosts' accesses to `BUF`

The laws the obligations of `20_memory.md` rest on: a word and its four bytes, a block and its sixteen bytes, and the step of
each buffer access. The obligations follow. -/

namespace Sys2Proof.Machine

/-! ## A word and its bytes (R13) -/

theorem bytes32_be32 (b0 b1 b2 b3 : Byte) : bytes32 (be32 b0 b1 b2 b3) = [b0, b1, b2, b3] := by
  rw [bytes32, extractLsb'_be32_lane0, extractLsb'_be32_lane1, extractLsb'_be32_lane2, extractLsb'_be32_lane3]

/-- The four lanes are adjacent, so put side by side they are the word. -/
theorem be32_extractLsb' (w : Word) :
    be32 (w.extractLsb' 24 8) (w.extractLsb' 16 8) (w.extractLsb' 8 8) (w.extractLsb' 0 8) = w := by
  have h1 : w.extractLsb' 24 8 ++ w.extractLsb' 16 8 = w.extractLsb' 16 16 :=
    BitVec.extractLsb'_append_extractLsb'_eq_extractLsb' rfl
  have h2 : w.extractLsb' 16 16 ++ w.extractLsb' 8 8 = w.extractLsb' 8 24 :=
    BitVec.extractLsb'_append_extractLsb'_eq_extractLsb' rfl
  have h3 : w.extractLsb' 8 24 ++ w.extractLsb' 0 8 = w.extractLsb' 0 32 :=
    BitVec.extractLsb'_append_extractLsb'_eq_extractLsb' rfl
  rw [be32, h1, h2, h3, BitVec.extractLsb'_eq_self]

/-! ## A block and its bytes (R54) -/

/-- The bytes of word `j` of a string are its four bytes at offset `4j`. -/
theorem bytes32_loadWord {s : List Byte} {j : Nat} (h : 4 * j + 4 ≤ s.length) :
    bytes32 (loadWord s j) = (s.drop (4 * j)).take 4 := by
  rw [loadWord, bytes32_be32]
  simp (disch := omega) only [List.getD_eq_getElem, List.drop_eq_getElem_cons, List.take_succ_cons, List.take_zero]

theorem storeBlock_loadBlock {s : List Byte} (hs : s.length = 16) : storeBlock (loadBlock s) = s := by
  calc storeBlock (loadBlock s)
    _ = s.take 4 ++ (s.drop 4).take 4 ++ (s.drop 8).take 4 ++ (s.drop 12).take 4 := by
      simp only [storeBlock, loadBlock]
      rw [bytes32_loadWord (by omega), bytes32_loadWord (by omega), bytes32_loadWord (by omega),
        bytes32_loadWord (by omega)]
      rfl
    _ = s.take 16 := by rw [← List.take_add, ← List.take_add, ← List.take_add]
    _ = s := List.take_of_length_le hs.le

theorem loadBlock_storeBlock (y : Quad) : loadBlock (storeBlock y) = y := by
  have h0 : loadWord (storeBlock y) 0 = y.x0 := be32_extractLsb' y.x0
  have h1 : loadWord (storeBlock y) 1 = y.x1 := be32_extractLsb' y.x1
  have h2 : loadWord (storeBlock y) 2 = y.x2 := be32_extractLsb' y.x2
  have h3 : loadWord (storeBlock y) 3 = y.x3 := be32_extractLsb' y.x3
  rw [loadBlock, h0, h1, h2, h3]

/-- Byte `4j + k` of a stored block is byte lane `k` of word `j`. -/
theorem getElem?_storeBlock (y : Quad) (k : Fin 4) :
    (storeBlock y)[k.val]? = some (byteLane k y.x0) ∧ (storeBlock y)[4 + k.val]? = some (byteLane k y.x1) ∧
    (storeBlock y)[8 + k.val]? = some (byteLane k y.x2) ∧ (storeBlock y)[12 + k.val]? = some (byteLane k y.x3) := by
  fin_cases k <;> exact ⟨rfl, rfl, rfl, rfl⟩

/-! ## The step of a buffer access (R52, R53) -/

section BufferAccesses

variable {s : State} {a : Nat} {b : Byte} {rest : List HostAction}

/-- A byte of `BUF` after one byte is written. -/
theorem bufByte_memWrite_singleton (hm : s.buf.wf) (x : Nat) :
    (s.memWrite a [b]).bufByte x = if x = a then b else s.bufByte x := by
  split
  case isTrue h => subst h; simp [bufByte_memWrite s x [b] x hm]
  case isFalse h => exact bufByte_memWrite_outside s a [b] x hm (by simp; omega)

theorem step_bufWrite (ha : a < s.cfg.bufBytes) (hs : s.script = .bufWrite a b :: rest) :
    step s = .next ((s.withScript rest).memWrite a [b]) :=
  (step_eq_perform hs).trans (if_pos ha)

theorem step_bufRead (ha : a < s.cfg.bufBytes) (hs : s.script = .bufRead a :: rest) :
    step s = .next { s with script := rest, replies := s.replies ++ [.buf a (s.bufByte a)] } :=
  (step_eq_perform hs).trans (perform_bufRead_iff.2 ⟨ha, rfl⟩)

end BufferAccesses

/-! ## The obligations of `20_memory.md` -/

/-- Settles O15: storing undoes loading, so the bytes of a string are those of its loaded block stored again. -/
theorem blockByteOrder : Obligations.BlockByteOrder := by
  refine ⟨fun s hs => ⟨storeBlock_loadBlock hs, fun k => ?_⟩, fun y => ⟨storeBlock_length y, loadBlock_storeBlock y⟩⟩
  have hlanes := getElem?_storeBlock (loadBlock s) k
  rwa [storeBlock_loadBlock hs] at hlanes

/-- Settles O48, by the step of a buffer write and of a buffer read. -/
theorem hostBufferAccess : Obligations.HostBufferAccess := by
  refine fun s a rest hm ha => ⟨fun b hs => ⟨_, step_bufWrite ha hs, ?_, fun x hx => ?_, rfl⟩, step_bufRead ha⟩
  · exact (bufByte_memWrite_singleton hm a).trans (if_pos rfl)
  · exact (bufByte_memWrite_singleton hm x).trans (if_neg hx)

/-- Settles O49: both accesses test the address first. -/
theorem hostBufferOutOfRange : Obligations.HostBufferOutOfRange := by
  rintro s a b rest ha (hs | hs)
  · exact (step_eq_perform hs).trans (if_neg (Nat.not_lt.2 ha))
  · exact (step_eq_perform hs).trans (if_neg (Nat.not_lt.2 ha))

end Sys2Proof.Machine

/-! # Proofs: the encoding of commands

The laws the obligations of `30_encoding.md` rest on: the fields of a packed word, what a word's fields say of its command,
the decoder by those fields, the rows of the opcode table, and the words of the mnemonics. The obligations follow. -/

namespace Sys2Proof.Machine

/-! ## The fields of a packed word (R80) -/

section Fields

variable (dp sp : Bool) (c : Nat) (eng : BitVec 2) (op : BitVec 4)

@[simp] theorem rsv1_packCommand : Cmd.rsv1 (packCommand dp sp c eng op) = 0 := by
  rw [Cmd.rsv1, packCommand]
  iterate 5 rw [BitVec.extractLsb'_append_eq_of_le (by decide)]
  exact BitVec.extractLsb'_append_eq_left

@[simp] theorem dp_packCommand : Cmd.dp (packCommand dp sp c eng op) = dp := by
  rw [Cmd.dp, packCommand]
  iterate 6 rw [BitVec.getLsbD_append]
  simp

@[simp] theorem sp_packCommand : Cmd.sp (packCommand dp sp c eng op) = sp := by
  rw [Cmd.sp, packCommand]
  iterate 5 rw [BitVec.getLsbD_append]
  simp

@[simp] theorem ctx_packCommand : Cmd.ctx (packCommand dp sp c eng op) = BitVec.ofNat 8 c := by
  rw [Cmd.ctx, packCommand]
  iterate 3 rw [BitVec.extractLsb'_append_eq_of_le (by decide)]
  exact BitVec.extractLsb'_append_eq_right

@[simp] theorem rsv0_packCommand : Cmd.rsv0 (packCommand dp sp c eng op) = 0 := by
  rw [Cmd.rsv0, packCommand]
  iterate 2 rw [BitVec.extractLsb'_append_eq_of_le (by decide)]
  exact BitVec.extractLsb'_append_eq_right

@[simp] theorem eng_packCommand : Cmd.eng (packCommand dp sp c eng op) = eng := by
  rw [Cmd.eng, packCommand, BitVec.extractLsb'_append_eq_of_le (by decide)]
  exact BitVec.extractLsb'_append_eq_right

@[simp] theorem op_packCommand : Cmd.op (packCommand dp sp c eng op) = op :=
  BitVec.extractLsb'_append_eq_right

end Fields

/-- The fields are adjacent, so a word whose reserved fields are 0 is its other fields packed again. -/
theorem packCommand_fields {w : Word} (h1 : Cmd.rsv1 w = 0) (h0 : Cmd.rsv0 w = 0) :
    packCommand (Cmd.dp w) (Cmd.sp w) (Cmd.ctx w).toNat (Cmd.eng w) (Cmd.op w) = w := by
  have hbit (i : Nat) : BitVec.ofBool (w.getLsbD i) = w.extractLsb' i 1 := by
    ext j hj
    obtain rfl : j = 0 := by omega
    simp
  have hctx : BitVec.ofNat 8 (Cmd.ctx w).toNat = w.extractLsb' 8 8 := by
    rw [BitVec.ofNat_toNat, BitVec.setWidth_eq, Cmd.ctx]
  simp only [packCommand, hctx, show (0#14) = _ from h1.symm, show (0#2) = _ from h0.symm]
  simp only [Cmd.rsv1, Cmd.dp, Cmd.sp, Cmd.rsv0, Cmd.eng, Cmd.op, hbit,
    BitVec.extractLsb'_append_extractLsb'_eq_extractLsb', BitVec.extractLsb'_eq_self]

/-! ## The words of `KEYEXP` and of each crypt command, by their fields (R81, R82) -/

/-- A word is `KEYEXP` when its reserved fields are 0, `OP` is 1, and `ENG` and `DP` are 0 (R87). -/
def IsKeyexp (w : Word) : Prop :=
  (Cmd.rsv1 w = 0 ∧ Cmd.rsv0 w = 0) ∧ (Cmd.op w).toNat = 1 ∧ (Cmd.eng w).toNat = 0 ∧ Cmd.dp w = false

/-- A word is a crypt command when its reserved fields are 0 and `OP` and `ENG` are the command's numbers (R81, R82). -/
def IsCrypt (arity : Arity) (dir : Direction) (eng : Engine) (w : Word) : Prop :=
  (Cmd.rsv1 w = 0 ∧ Cmd.rsv0 w = 0) ∧ (Cmd.op w).toNat = (cryptOp arity dir).toNat ∧
    (Cmd.eng w).toNat = (engineNumber eng).toNat

/-- The crypt commands are the words with `OP` 2 to 5 and `ENG` 0 to 2. -/
theorem exists_isCrypt_iff (w : Word) : (∃ arity dir eng, IsCrypt arity dir eng w) ↔
    (Cmd.rsv1 w = 0 ∧ Cmd.rsv0 w = 0) ∧ (2 ≤ (Cmd.op w).toNat ∧ (Cmd.op w).toNat ≤ 5) ∧ (Cmd.eng w).toNat ≤ 2 := by
  constructor
  · rintro ⟨arity, dir, eng, hrsv, hop, heng⟩
    rw [hop, heng]
    exact ⟨hrsv, by cases arity <;> cases dir <;> decide, by cases eng <;> decide⟩
  · rintro ⟨hrsv, ⟨hop2, hop5⟩, heng⟩
    have hengine : ∃ eng, (Cmd.eng w).toNat = (engineNumber eng).toNat := by
      interval_cases (Cmd.eng w).toNat
      · exact ⟨.ref, rfl⟩
      · exact ⟨.tab, rfl⟩
      · exact ⟨.bat, rfl⟩
    have hoperation : ∃ arity dir, (Cmd.op w).toNat = (cryptOp arity dir).toNat := by
      interval_cases (Cmd.op w).toNat
      · exact ⟨.single, .enc, rfl⟩
      · exact ⟨.single, .dec, rfl⟩
      · exact ⟨.batch, .enc, rfl⟩
      · exact ⟨.batch, .dec, rfl⟩
    obtain ⟨eng, heng⟩ := hengine
    obtain ⟨arity, dir, hop⟩ := hoperation
    exact ⟨arity, dir, eng, hrsv, hop, heng⟩

/-- The word a crypt command is packed into, by the numbers of its operation and its engine. -/
def packCrypt (arity : Arity) (dir : Direction) (eng : Engine) (dp sp : Bool) (c : Nat) : Word :=
  packCommand dp sp c ((engineNumber eng).setWidth 2) ((cryptOp arity dir).setWidth 4)

theorem encode_cryptInstr (arity : Arity) (dir : Direction) (eng : Engine) (dp sp : Bool) (c : Nat) :
    encode (cryptInstr arity dir eng dp sp c) = packCrypt arity dir eng dp sp c := by
  cases arity <;> cases dir <;> cases eng <;> rfl

@[simp] theorem slot_cryptInstr (arity : Arity) (dir : Direction) (eng : Engine) (dp sp : Bool) (c : Nat) :
    (cryptInstr arity dir eng dp sp c).slot = c := by
  cases arity <;> cases dir <;> cases eng <;> rfl

/-- The operation's number fits `OP`, and the engine's number fits `ENG`. -/
theorem isCrypt_packCrypt (arity : Arity) (dir : Direction) (eng : Engine) (dp sp : Bool) (c : Nat) :
    IsCrypt arity dir eng (packCrypt arity dir eng dp sp c) := by
  refine ⟨⟨rsv1_packCommand .., rsv0_packCommand ..⟩, ?_, ?_⟩
  · rw [packCrypt, op_packCommand]
    cases arity <;> cases dir <;> rfl
  · rw [packCrypt, eng_packCommand]
    cases eng <;> rfl

theorem isKeyexp_packCommand (sp : Bool) (c : Nat) : IsKeyexp (packCommand false sp c 0 1) := by
  simp [IsKeyexp]

theorem packCommand_of_isKeyexp {w : Word} (h : IsKeyexp w) :
    packCommand false (Cmd.sp w) (Cmd.ctx w).toNat 0 1 = w := by
  obtain ⟨⟨h1, h0⟩, hop, heng, hdp⟩ := h
  have hop' : Cmd.op w = 1 := BitVec.eq_of_toNat_eq hop
  have heng' : Cmd.eng w = 0 := BitVec.eq_of_toNat_eq heng
  rw [← hdp, ← hop', ← heng', packCommand_fields h1 h0]

theorem packCrypt_of_isCrypt {arity : Arity} {dir : Direction} {eng : Engine} {w : Word} (h : IsCrypt arity dir eng w) :
    packCrypt arity dir eng (Cmd.dp w) (Cmd.sp w) (Cmd.ctx w).toNat = w := by
  obtain ⟨⟨h1, h0⟩, hop, heng⟩ := h
  have hop' : (cryptOp arity dir).setWidth 4 = Cmd.op w := by rw [← BitVec.ofNat_toNat, ← hop]; simp
  have heng' : (engineNumber eng).setWidth 2 = Cmd.eng w := by rw [← BitVec.ofNat_toNat, ← heng]; simp
  rw [packCrypt, hop', heng', packCommand_fields h1 h0]

/-! ## The decoder by fields (R87) -/

section Decoder

variable {w : Word}

theorem decode_of_isKeyexp (h : IsKeyexp w) : decode w = .ok (.keyexp (Cmd.sp w) (Cmd.ctx w).toNat) := by
  obtain ⟨⟨h1, h0⟩, hop, heng, hdp⟩ := h
  have heng' : Cmd.eng w = 0 := BitVec.eq_of_toNat_eq heng
  simp [decode, decodeKeyexp, h1, h0, hop, heng', hdp]

/-- `ENG` picks the command of its engine. -/
theorem decodeEngine_of_eng (f : Engine → Bool → Bool → Nat → Instr) {eng : Engine}
    (h : (Cmd.eng w).toNat = (engineNumber eng).toNat) :
    decodeEngine (f .ref) (f .tab) (f .bat) w = .ok (f eng (Cmd.dp w) (Cmd.sp w) (Cmd.ctx w).toNat) := by
  rw [decodeEngine, h]
  cases eng <;> rfl

theorem decode_of_isCrypt (arity : Arity) (dir : Direction) (eng : Engine) (h : IsCrypt arity dir eng w) :
    decode w = .ok (cryptInstr arity dir eng (Cmd.dp w) (Cmd.sp w) (Cmd.ctx w).toNat) := by
  obtain ⟨⟨h1, h0⟩, hop, heng⟩ := h
  calc decode w
    _ = decodeEngine (cryptInstr arity dir .ref) (cryptInstr arity dir .tab) (cryptInstr arity dir .bat) w := by
      rw [decode, if_neg (not_not.2 h1), if_neg (not_not.2 h0), hop]
      cases arity <;> cases dir <;> rfl
    _ = _ := decodeEngine_of_eng (cryptInstr arity dir) heng

theorem decodeKeyexp_error (h : ¬ ((Cmd.eng w).toNat = 0 ∧ Cmd.dp w = false)) : ∃ e, decodeKeyexp w = .error e := by
  unfold decodeKeyexp
  split
  · exact ⟨_, rfl⟩
  · next heng =>
    split
    · exact ⟨_, rfl⟩
    · next hdp => exact absurd ⟨congrArg BitVec.toNat (not_not.1 heng), Bool.eq_false_of_not_eq_true hdp⟩ h

theorem decodeEngine_error (ref tab bat : Bool → Bool → Nat → Instr)
    (h : ∀ eng, (Cmd.eng w).toNat ≠ (engineNumber eng).toNat) : ∃ e, decodeEngine ref tab bat w = .error e := by
  unfold decodeEngine
  split
  case h_1 heng => exact absurd heng (h .ref)
  case h_2 heng => exact absurd heng (h .tab)
  case h_3 heng => exact absurd heng (h .bat)
  case h_4 => exact ⟨_, rfl⟩

/-- A word that is no command is illegal (R87). -/
theorem decode_error (hkey : ¬ IsKeyexp w) (hcrypt : ¬ ∃ arity dir eng, IsCrypt arity dir eng w) :
    ∃ e, decode w = .error e := by
  unfold decode
  split
  · exact ⟨_, rfl⟩
  split
  · exact ⟨_, rfl⟩
  rename_i h1 h0
  have hrsv : Cmd.rsv1 w = 0 ∧ Cmd.rsv0 w = 0 := ⟨not_not.1 h1, not_not.1 h0⟩
  split
  case h_1 hop => exact decodeKeyexp_error fun h => hkey ⟨hrsv, hop, h⟩
  case h_2 hop => exact decodeEngine_error _ _ _ fun eng heng => hcrypt ⟨.single, .enc, eng, hrsv, hop, heng⟩
  case h_3 hop => exact decodeEngine_error _ _ _ fun eng heng => hcrypt ⟨.single, .dec, eng, hrsv, hop, heng⟩
  case h_4 hop => exact decodeEngine_error _ _ _ fun eng heng => hcrypt ⟨.batch, .enc, eng, hrsv, hop, heng⟩
  case h_5 hop => exact decodeEngine_error _ _ _ fun eng heng => hcrypt ⟨.batch, .dec, eng, hrsv, hop, heng⟩
  case h_6 => exact ⟨_, rfl⟩

/-- Everything a word can be: `KEYEXP`, a crypt command, or illegal. -/
theorem decode_cases (w : Word) :
    IsKeyexp w ∨ (∃ arity dir eng, IsCrypt arity dir eng w) ∨ ∃ e, decode w = .error e := by
  by_cases hkey : IsKeyexp w
  · exact .inl hkey
  by_cases hcrypt : ∃ arity dir eng, IsCrypt arity dir eng w
  · exact .inr (.inl hcrypt)
  · exact .inr (.inr (decode_error hkey hcrypt))

/-- Exactly the words that are no command are illegal. -/
theorem decode_error_iff : (∃ e, decode w = .error e) ↔
    ¬ IsKeyexp w ∧ ¬ ∃ arity dir eng, IsCrypt arity dir eng w := by
  constructor
  · rintro ⟨e, he⟩
    refine ⟨fun hkey => ?_, fun ⟨arity, dir, eng, hcrypt⟩ => ?_⟩
    · cases he.symm.trans (decode_of_isKeyexp hkey)
    · cases he.symm.trans (decode_of_isCrypt _ _ _ hcrypt)
  · rintro ⟨hkey, hcrypt⟩
    exact decode_error hkey hcrypt

/-- The illegal words of R87, field by field. -/
theorem decode_error_iff_fields : (∃ e, decode w = .error e) ↔
    Cmd.rsv1 w ≠ 0 ∨ Cmd.rsv0 w ≠ 0 ∨ ((Cmd.op w).toNat = 0 ∨ 6 ≤ (Cmd.op w).toNat) ∨
      ((Cmd.op w).toNat = 1 ∧ ((Cmd.eng w).toNat ≠ 0 ∨ Cmd.dp w = true)) ∨
      ((Cmd.op w).toNat ≠ 1 ∧ (Cmd.eng w).toNat = 3) := by
  have heng : (Cmd.eng w).toNat < 4 := (Cmd.eng w).isLt
  rw [decode_error_iff, exists_isCrypt_iff, IsKeyexp]
  grind

end Decoder

/-! ## Encoding and decoding are inverse (R80, R89) -/

theorem decode_encode {i : Instr} (hi : i.WellFormed) : decode (encode i) = .ok i := by
  have hctx {c : Nat} (hc : c ≤ 255) : (BitVec.ofNat 8 c).toNat = c := by simp; omega
  obtain ⟨sp, c, rfl⟩ | ⟨arity, dir, eng, dp, sp, c, rfl⟩ := instr_cases i
  · have hc : c ≤ 255 := hi
    rw [encode, decode_of_isKeyexp (isKeyexp_packCommand sp c), sp_packCommand, ctx_packCommand, hctx hc]
  · have hc : c ≤ 255 := by simpa using hi
    rw [encode_cryptInstr, decode_of_isCrypt _ _ _ (isCrypt_packCrypt ..), packCrypt, dp_packCommand, sp_packCommand,
      ctx_packCommand, hctx hc]

theorem encode_of_decode {w : Word} {i : Instr} (h : decode w = .ok i) : i.WellFormed ∧ encode i = w := by
  have hctx : (Cmd.ctx w).toNat ≤ 255 := Nat.le_of_lt_succ (Cmd.ctx w).isLt
  obtain hkey | ⟨arity, dir, eng, hcrypt⟩ | ⟨e, he⟩ := decode_cases w
  · obtain rfl := Except.ok.inj (h.symm.trans (decode_of_isKeyexp hkey))
    exact ⟨hctx, packCommand_of_isKeyexp hkey⟩
  · obtain rfl := Except.ok.inj (h.symm.trans (decode_of_isCrypt _ _ _ hcrypt))
    exact ⟨by simpa using hctx, (encode_cryptInstr ..).trans (packCrypt_of_isCrypt hcrypt)⟩
  · cases h.symm.trans he

/-! ## The rows of the opcode table (R89) -/

/-- The row of `KEYEXP`: its mask drops `SP` and `CTX`. -/
def keyexpRow : OpcodeRow := ⟨"KEYEXP", packCommand false false 0 0 1, 0xFFFE00FF⟩

/-- The row of a crypt command: its mask drops `DP`, `SP` and `CTX`. -/
def cryptRow (arity : Arity) (dir : Direction) (eng : Engine) : OpcodeRow :=
  ⟨(cryptInstr arity dir eng false false 0).mnemonic, packCrypt arity dir eng false false 0, 0xFFFC00FF⟩

theorem opcodeRows_eq : opcodeRows = keyexpRow :: [Arity.single, .batch].flatMap fun arity =>
    [Direction.enc, .dec].flatMap fun dir => [Engine.ref, .tab, .bat].map (cryptRow arity dir) := by
  decide

theorem mem_opcodeRows {row : OpcodeRow} :
    row ∈ opcodeRows ↔ row = keyexpRow ∨ ∃ arity dir eng, row = cryptRow arity dir eng := by
  rw [opcodeRows_eq]
  constructor
  · simp only [List.mem_cons, List.mem_flatMap, List.mem_map]
    rintro (h | ⟨arity, -, dir, -, eng, -, h⟩)
    · exact .inl h
    · exact .inr ⟨arity, dir, eng, h.symm⟩
  · rintro (rfl | ⟨arity, dir, eng, rfl⟩)
    · exact List.mem_cons_self
    · simp only [List.mem_cons, List.mem_flatMap, List.mem_map]
      exact .inr ⟨arity, by cases arity <;> simp, dir, by cases dir <;> simp, eng, by cases eng <;> simp, rfl⟩

theorem opcodeRow_eq_of_mnemonic : ∀ row ∈ opcodeRows, ∀ row' ∈ opcodeRows,
    row.mnemonic = row'.mnemonic → row = row' := by
  decide

theorem mnemonic_cryptInstr (arity : Arity) (dir : Direction) (eng : Engine) (dp sp : Bool) (c : Nat) :
    (cryptInstr arity dir eng dp sp c).mnemonic = (cryptRow arity dir eng).mnemonic := by
  cases arity <;> cases dir <;> cases eng <;> rfl

section Masks

variable (w : Word)

/-- The mask of the row `KEYEXP` keeps the fields that make a word `KEYEXP`. -/
theorem isKeyexp_and_mask : IsKeyexp (w &&& 0xFFFE00FF) ↔ IsKeyexp w := by
  have h1 : Cmd.rsv1 (w &&& 0xFFFE00FF) = Cmd.rsv1 w := BitVec.extractLsb'_and.trans BitVec.and_allOnes
  have h0 : Cmd.rsv0 (w &&& 0xFFFE00FF) = Cmd.rsv0 w := BitVec.extractLsb'_and.trans BitVec.and_allOnes
  have hop : Cmd.op (w &&& 0xFFFE00FF) = Cmd.op w := BitVec.extractLsb'_and.trans BitVec.and_allOnes
  have heng : Cmd.eng (w &&& 0xFFFE00FF) = Cmd.eng w := BitVec.extractLsb'_and.trans BitVec.and_allOnes
  have hdp : Cmd.dp (w &&& 0xFFFE00FF) = Cmd.dp w := (BitVec.getLsbD_and ..).trans (Bool.and_true _)
  rw [IsKeyexp, h1, h0, hop, heng, hdp, IsKeyexp]

/-- The mask of a crypt row keeps the fields that make a word that crypt command. -/
theorem isCrypt_and_mask (arity : Arity) (dir : Direction) (eng : Engine) :
    IsCrypt arity dir eng (w &&& 0xFFFC00FF) ↔ IsCrypt arity dir eng w := by
  have h1 : Cmd.rsv1 (w &&& 0xFFFC00FF) = Cmd.rsv1 w := BitVec.extractLsb'_and.trans BitVec.and_allOnes
  have h0 : Cmd.rsv0 (w &&& 0xFFFC00FF) = Cmd.rsv0 w := BitVec.extractLsb'_and.trans BitVec.and_allOnes
  have hop : Cmd.op (w &&& 0xFFFC00FF) = Cmd.op w := BitVec.extractLsb'_and.trans BitVec.and_allOnes
  have heng : Cmd.eng (w &&& 0xFFFC00FF) = Cmd.eng w := BitVec.extractLsb'_and.trans BitVec.and_allOnes
  rw [IsCrypt, h1, h0, hop, heng, IsCrypt]

end Masks

/-- A word that matches a row decodes to a command of that row. -/
theorem decode_of_matchesWord {row : OpcodeRow} {w : Word} (hrow : row ∈ opcodeRows) (h : row.matchesWord w) :
    ∃ i, decode w = .ok i ∧ i.mnemonic = row.mnemonic := by
  obtain rfl | ⟨arity, dir, eng, rfl⟩ := mem_opcodeRows.1 hrow
  · have hmasked : w &&& 0xFFFE00FF = packCommand false false 0 0 1 := h
    have hkey : IsKeyexp w := (isKeyexp_and_mask w).1 (hmasked ▸ isKeyexp_packCommand false 0)
    exact ⟨_, decode_of_isKeyexp hkey, rfl⟩
  · have hmasked : w &&& 0xFFFC00FF = packCrypt arity dir eng false false 0 := h
    have hcrypt : IsCrypt arity dir eng w := (isCrypt_and_mask w arity dir eng).1 (hmasked ▸ isCrypt_packCrypt ..)
    exact ⟨_, decode_of_isCrypt _ _ _ hcrypt, mnemonic_cryptInstr ..⟩

/-- The word of every well-formed command matches the row with its mnemonic. -/
theorem encode_matches_row (i : Instr) : Laws.EncodesItsRow.Statement i :=
  match i with
  | .keyexp sp c => Laws.EncodesItsRow.keyexp sp c
  | .enc1Ref dp sp c => Laws.EncodesItsRow.enc1Ref dp sp c
  | .enc1Tab dp sp c => Laws.EncodesItsRow.enc1Tab dp sp c
  | .enc1Bat dp sp c => Laws.EncodesItsRow.enc1Bat dp sp c
  | .dec1Ref dp sp c => Laws.EncodesItsRow.dec1Ref dp sp c
  | .dec1Tab dp sp c => Laws.EncodesItsRow.dec1Tab dp sp c
  | .dec1Bat dp sp c => Laws.EncodesItsRow.dec1Bat dp sp c
  | .encnRef dp sp c => Laws.EncodesItsRow.encnRef dp sp c
  | .encnTab dp sp c => Laws.EncodesItsRow.encnTab dp sp c
  | .encnBat dp sp c => Laws.EncodesItsRow.encnBat dp sp c
  | .decnRef dp sp c => Laws.EncodesItsRow.decnRef dp sp c
  | .decnTab dp sp c => Laws.EncodesItsRow.decnTab dp sp c
  | .decnBat dp sp c => Laws.EncodesItsRow.decnBat dp sp c

/-- A word that decodes matches the row of its command. -/
theorem exists_row_of_decode {w : Word} {i : Instr} (h : decode w = .ok i) :
    ∃ row ∈ opcodeRows, row.mnemonic = i.mnemonic ∧ row.matchesWord w := by
  obtain ⟨hi, rfl⟩ := encode_of_decode h
  exact encode_matches_row i hi

/-! ## The words of the mnemonics (R92) -/

/-- The fields of packed words are put together one by one. -/
theorem packCommand_or (dp dp' sp sp' : Bool) (c c' : Nat) (eng eng' : BitVec 2) (op op' : BitVec 4) :
    packCommand dp sp c eng op ||| packCommand dp' sp' c' eng' op' =
      packCommand (dp || dp') (sp || sp') (c ||| c') (eng ||| eng') (op ||| op') := by
  simp only [packCommand]
  iterate 6 rw [BitVec.or_append]
  rw [BitVec.or_self, BitVec.or_self, BitVec.ofBool_or_ofBool, BitVec.ofBool_or_ofBool, BitVec.ofNat_or]

theorem slotBits_eq_packCommand {c : Nat} (hc : c ≤ 255) : slotBits c = packCommand false false c 0 0 := by
  refine BitVec.eq_of_toNat_eq ?_
  rw [packCommand]
  iterate 6 rw [BitVec.toNat_append]
  simp [slotBits, Nat.shiftLeft_eq]
  omega

theorem presenceBit_dp (b : Option BufferRef) : presenceBit 0x00020000 b = packCommand b.isSome false 0 0 0 := by
  rw [presenceBit]
  cases b.isSome <;> rfl

theorem presenceBit_sp (b : Option BufferRef) : presenceBit 0x00010000 b = packCommand false b.isSome 0 0 0 := by
  rw [presenceBit]
  cases b.isSome <;> rfl

theorem engineNumber_eq_packCommand (eng : Engine) :
    engineNumber eng <<< 4 = packCommand false false 0 ((engineNumber eng).setWidth 2) 0 := by
  cases eng <;> rfl

theorem cryptOp_eq_packCommand (arity : Arity) (dir : Direction) :
    cryptOp arity dir = packCommand false false 0 0 ((cryptOp arity dir).setWidth 4) := by
  cases arity <;> cases dir <;> rfl

theorem keyexpWord_eq_encode {c : Nat} (hc : c ≤ 255) (key : Option BufferRef) :
    keyexpWord c key = encode (.keyexp key.isSome c) := by
  have hop : (0x00000001 : Word) = packCommand false false 0 0 1 := rfl
  rw [keyexpWord, presenceBit_sp, slotBits_eq_packCommand hc, hop, encode]
  simp [packCommand_or]

theorem cryptWord_eq_encode {c : Nat} (hc : c ≤ 255) (arity : Arity) (dir : Direction) (eng : Engine)
    (src dst : Option BufferRef) :
    cryptWord arity dir eng c src dst = encode (cryptInstr arity dir eng dst.isSome src.isSome c) := by
  rw [cryptWord, presenceBit_dp, presenceBit_sp, slotBits_eq_packCommand hc, engineNumber_eq_packCommand,
    cryptOp_eq_packCommand, encode_cryptInstr, packCrypt]
  simp [packCommand_or]

/-! ## The step of an illegal word (R87, R208) -/

theorem step_illegal {s : State} {p : Nat} {r : PortRegs} {w : Word} {rest : List HostAction} {e : Illegal}
    (hp : s.ports[p]? = some r) (hs : s.script = .regWrite p 0 w :: rest) (he : decode w = .error e) :
    step s = .next (((s.withScript rest).acceptCommand p r w).withStatus { r with cmd := w } .illegalCommand) := by
  have hissuer : ((s.withScript rest).acceptCommand p r w).issuingPort = some { r with cmd := w } :=
    issuingPort_acceptCommand (s := s.withScript rest) hp
  rw [step_cmdWrite hp hs, runCommand, he, ← report_eq_withStatus hissuer]
  rfl

/-! ## The obligations of `30_encoding.md` -/

/-- Settles O1: the fields of the packed word are those of the command, and they are what the decoder reads. -/
theorem decodeOfEncode : Obligations.DecodeOfEncode := fun _ => decode_encode

/-- Settles O2: the fields of a word determine it, and each field but the reserved ones is kept in the command. -/
theorem encodeOfDecode : Obligations.EncodeOfDecode := fun _ _ => encode_of_decode

/-- Settles O3: a row and a decoded command are the same by their mnemonic, which no two rows share. -/
theorem decodeAgreesWithOpcodeTable : Obligations.DecodeAgreesWithOpcodeTable := by
  refine ⟨fun w row hrow => ⟨decode_of_matchesWord hrow, ?_⟩, fun w row hrow row' hrow' h h' => ?_, fun w hnone => ?_⟩
  · rintro ⟨i, hdec, hname⟩
    obtain ⟨row', hrow', hname', hmatch⟩ := exists_row_of_decode hdec
    rwa [opcodeRow_eq_of_mnemonic row hrow row' hrow' (hname.symm.trans hname'.symm)]
  · obtain ⟨i, hdec, hname⟩ := decode_of_matchesWord hrow h
    obtain ⟨i', hdec', hname'⟩ := decode_of_matchesWord hrow' h'
    obtain rfl := Except.ok.inj (hdec.symm.trans hdec')
    exact opcodeRow_eq_of_mnemonic row hrow row' hrow' (hname.symm.trans hname')
  · cases hdec : decode w with
    | error e => exact ⟨e, rfl⟩
    | ok i =>
      obtain ⟨row, hrow, -, hmatch⟩ := exists_row_of_decode hdec
      exact absurd hmatch (hnone row hrow)

/-- Settles O4, by the fields that make a word each command, and by the step of an illegal word. -/
theorem decodeByFields : Obligations.DecodeByFields := by
  refine ⟨fun w => ⟨decode_error_iff_fields, decode_of_isKeyexp,
    decode_of_isCrypt .single .enc .ref,
    decode_of_isCrypt .single .enc .tab,
    decode_of_isCrypt .single .enc .bat,
    decode_of_isCrypt .single .dec .ref,
    decode_of_isCrypt .single .dec .tab,
    decode_of_isCrypt .single .dec .bat,
    decode_of_isCrypt .batch .enc .ref,
    decode_of_isCrypt .batch .enc .tab,
    decode_of_isCrypt .batch .enc .bat,
    decode_of_isCrypt .batch .dec .ref,
    decode_of_isCrypt .batch .dec .tab,
    decode_of_isCrypt .batch .dec .bat⟩, fun s p r w rest e hs hp he => ?_⟩
  rw [step_illegal hp hs he, State.withStatus, acceptCommand_ports, acceptCommand_issuer, List.set_set]
  rfl

/-- Settles O7: the word a mnemonic writes is the encoding of its command. -/
theorem mnemonicWordsDecode : Obligations.MnemonicWordsDecode := by
  refine fun c hc => ⟨fun key => ?_, fun arity dir eng src dst => ?_⟩
  · rw [keyexpWord_eq_encode hc]
    exact decode_encode hc
  · rw [cryptWord_eq_encode hc]
    exact decode_encode ((slot_cryptInstr ..).trans_le hc)

/-- Settles O5, by evaluating the decoder on the words of V9. -/
theorem sampleWordsDecode : Obligations.SampleWordsDecode := by
  unfold Obligations.SampleWordsDecode
  decide

end Sys2Proof.Machine

/-! # Proofs: the primitive transform units

The laws the obligations of `40_primitives.md` rest on: the byte lanes of a word, the S-box and its inverse, `Sub` lane by
lane, and rotation bit by bit with the two linear maps over it. The obligations follow. -/

namespace Sys2Proof.Machine

/-! ## The byte lanes of a word (R110) -/

/-- Putting a word's lanes side by side gives the word. -/
theorem be32_byteLane (w : Word) : be32 (byteLane 0 w) (byteLane 1 w) (byteLane 2 w) (byteLane 3 w) = w :=
  be32_extractLsb' w

/-- Any function of the lanes is read back lane by lane. -/
theorem byteLane_be32 (f : Fin 4 → Byte) : ∀ k : Fin 4, byteLane k (be32 (f 0) (f 1) (f 2) (f 3)) = f k
  | 0 => extractLsb'_be32_lane0 ..
  | 1 => extractLsb'_be32_lane1 ..
  | 2 => extractLsb'_be32_lane2 ..
  | 3 => extractLsb'_be32_lane3 ..

theorem eq_of_byteLane_eq {v w : Word} (h : ∀ k, byteLane k v = byteLane k w) : v = w := by
  rw [← be32_byteLane v, h 0, h 1, h 2, h 3, be32_byteLane]

theorem byteLane_placeLane (k l : Fin 4) (b : Byte) : byteLane l (placeLane k b) = if l = k then b else 0 := by
  refine BitVec.eq_of_getLsbD_eq fun j hj => ?_
  have hbit : (byteLane l (placeLane k b)).getLsbD j = (decide (24 - 8 * k.val ≤ 24 - 8 * l.val + j) &&
      b.getLsbD (24 - 8 * l.val + j - (24 - 8 * k.val))) := by
    rw [byteLane, BitVec.getLsbD_extractLsb', getLsbD_placeLane _ _ _ (by omega), decide_eq_true hj, Bool.true_and]
  rw [hbit]
  rcases Nat.lt_trichotomy l.val k.val with hlt | heq | hgt
  · -- a more significant lane lies past the eight bits of `b`
    rw [if_neg (Fin.ne_of_lt hlt), BitVec.getLsbD_of_ge b _ (by omega)]
    simp
  · simp [Fin.ext heq]
  · -- a less significant lane lies below the bits of `b`
    rw [if_neg (Fin.ne_of_gt hgt), decide_eq_false (by omega)]
    simp

/-! ## The S-box (R111) -/

/-- The rows of the inverse table, written as those of `sboxRows` are. -/
def sboxInverseRows : Vector (BitVec 128) 16 :=
  #v[0x716c7ab8160f1e4135ebd02ae4ac625a, 0xcdc8db1a0a8e0846f04b96c132a060cc,
     0xf76d69aa61681b760ca914100ed8a3b7, 0x9bd29a28955f79b286fef46b4a06fb3e,
     0x84cb212b19b37240ff1ce35b78f6ae4e, 0x22bf77ad29975d736549cebeca9263fa,
     0xa78d2f6455e8a51150e1ba51bdbcedaf, 0x5c54bb45d93c13e66ef827d66af2e7c7,
     0x3852a448ef4d1d6fd3e082579dc0b63d, 0x0124c3993a37e5e2261f1294205e7f74,
     0x7c8f678893d43f424f3318ab2e9891c2, 0xdf9e5331de870907dce947c4c6d71581,
     0xa8d10b177decee857e34a6fd04d58b2d, 0xda66837570b000fccfc956b1f5c5b439,
     0x9005a29f30dd4c7b36028059f32cf925, 0xf1ea8a44239ca189588c3b0d43b503b9]

/-- The inverse of the S-box, a lookup of the same shape. -/
def sboxInverse (v : Byte) : Byte :=
  let row := sboxInverseRows[(v.extractLsb' 4 4).toFin]
  row.extractLsb' (8 * (15 - (v.extractLsb' 0 4).toNat)) 8

theorem sboxInverse_sbox : Function.LeftInverse sboxInverse sbox := by
  unfold Function.LeftInverse
  decide

/-- On the finitely many bytes a left inverse makes a bijection. -/
theorem sbox_bijective : Function.Bijective sbox :=
  Finite.injective_iff_bijective.1 sboxInverse_sbox.injective

theorem sbox_eq_self_iff : ∀ b : Byte, sbox b = b ↔ b = 0xab := by
  decide

/-! ## `Sub` lane by lane (R112) -/

theorem byteLane_sub (w : Word) (k : Fin 4) : byteLane k (sub w) = sbox (byteLane k w) :=
  byteLane_be32 (fun k => sbox (byteLane k w)) k

/-- The lanes of the input are determined one by one, so words with the same `Sub` are the same. -/
theorem sub_injective : Function.Injective sub := fun v w h =>
  eq_of_byteLane_eq fun k => sbox_bijective.injective <| by rw [← byteLane_sub, h, byteLane_sub]

/-! ## Rotation bit by bit (R113) -/

/-- Bit `i` of the rotated word comes from `n` places below, around the end of the word. -/
theorem getLsbD_rotl (w : Word) (n : Fin 32) {i : Nat} (hi : i < 32) :
    (rotl w n).getLsbD i = w.getLsbD ((i + 32 - n.val) % 32) := by
  rw [rotl, BitVec.getLsbD_or, BitVec.getLsbD_shiftLeft, BitVec.getLsbD_ushiftRight]
  by_cases hwrap : i < n.val
  · have hsrc : (i + 32 - n.val) % 32 = 32 - n.val + i := by omega
    simp [hwrap, hsrc]
  · have hsrc : (i + 32 - n.val) % 32 = i - n.val := by omega
    have hpast : 32 ≤ 32 - n.val + i := by omega
    simp [hwrap, hsrc, hi, BitVec.getLsbD_of_ge w _ hpast]

theorem getLsbD_rotl_add (w : Word) (n : Fin 32) {i : Nat} (hi : i < 32) :
    (rotl w n).getLsbD ((i + n.val) % 32) = w.getLsbD i := by
  have hsrc : ((i + n.val) % 32 + 32 - n.val) % 32 = i := by omega
  rw [getLsbD_rotl w n (Nat.mod_lt _ (by decide)), hsrc]

theorem rotl_amount_zero (w : Word) : rotl w 0 = w := by
  refine BitVec.eq_of_getLsbD_eq fun i hi => ?_
  have hsrc : (i + 32 - (0 : Fin 32).val) % 32 = i := by simp; omega
  rw [getLsbD_rotl w 0 hi, hsrc]

/-- Amounts add modulo 32 (R119), which is how amounts are added. -/
theorem rotl_rotl (w : Word) (n m : Fin 32) : rotl (rotl w n) m = rotl w (n + m) := by
  refine BitVec.eq_of_getLsbD_eq fun i hi => ?_
  have hsrc : ((i + 32 - m.val) % 32 + 32 - n.val) % 32 = (i + 32 - (n + m).val) % 32 := by
    rw [Fin.val_add]; omega
  rw [getLsbD_rotl _ m hi, getLsbD_rotl w n (Nat.mod_lt _ (by decide)), getLsbD_rotl w _ hi, hsrc]

theorem rotl_comm (w : Word) (n m : Fin 32) : rotl (rotl w n) m = rotl (rotl w m) n := by
  rw [rotl_rotl, rotl_rotl, add_comm]

/-! ## The linear maps over XOR and rotation (R119) -/

theorem lKey_xor (a b : Word) : lKey (a ^^^ b) = lKey a ^^^ lKey b := by
  simp only [lKey, rotl_xor]
  ac_rfl

theorem lData_rotl (w : Word) (n : Fin 32) : lData (rotl w n) = rotl (lData w) n := by
  simp only [lData, rotl_xor, rotl_comm w n]

theorem lKey_rotl (w : Word) (n : Fin 32) : lKey (rotl w n) = rotl (lKey w) n := by
  simp only [lKey, rotl_xor, rotl_comm w n]

/-! ## The obligations of `40_primitives.md` -/

/-- Settles O8: the lanes are the four bytes of the word, and they do not meet. -/
theorem byteLanesRecompose : Obligations.ByteLanesRecompose := by
  refine ⟨fun w => ⟨rfl, rfl, rfl, rfl⟩, byteLane_placeLane, fun w => ?_, by decide, by decide, by decide⟩
  rw [← be32_eq_xor_placeLane, be32_byteLane]

/-- Settles O9: each output lane is the S-box of the same input lane, and the values are read off the table. -/
theorem subActsPerByteLane : Obligations.SubActsPerByteLane :=
  ⟨fun _ => be32_eq_xor_placeLane .., byteLane_sub, by decide, by decide, sbox_eq_self_iff, by decide, by decide⟩

/-- Settles O10: bit `(i + n) mod 32` of the rotated word comes from bit `i`. -/
theorem rotationMovesBits : Obligations.RotationMovesBits :=
  ⟨fun w n _ _ hi => getLsbD_rotl_add w n hi, by decide, by decide, by decide, by decide⟩

/-- Settles O11, by evaluating the maps at the corner cases. -/
theorem transformCornerCases : Obligations.TransformCornerCases := by
  unfold Obligations.TransformCornerCases
  decide

/-- Settles O12: two rotations are the rotation by the sum, so they commute, and the maps are XORs of rotations. -/
theorem diffusionLaws : Obligations.DiffusionLaws := by
  refine ⟨fun a b => ⟨lData_xor a b, lKey_xor a b⟩, fun a b n _ => rotl_xor a b n, fun a n m _ _ => ?_,
    fun a n _ => ⟨lData_rotl a n, lKey_rotl a n⟩⟩
  rw [rotl_rotl]
  split
  case isTrue hsum =>
    have hzero : n + m = 0 := Fin.ext hsum
    rw [hzero, rotl_amount_zero]
  case isFalse => rfl

/-- Settles O13: the S-box has an inverse table, and `Sub` is the S-box in each lane. -/
theorem subIsBijection : Obligations.SubIsBijection :=
  ⟨sbox_bijective, Finite.injective_iff_bijective.1 sub_injective⟩

end Sys2Proof.Machine

/-! # Proofs: the key schedule and `KEYEXP`

The laws the obligations of `41_key_schedule.md` rest on: the words of the key schedule with its start window in front, the
four checks of `KEYEXP`, and what the command leaves unchanged. The obligations follow. -/

namespace Sys2Proof.Machine

/-! ## The words of the key schedule (R132) -/

/-- The words `K[0], K[1], ...` of R132: the start window, and then one word per round constant. -/
def scheduleWords (k : Quad) (cs : List Word) : List Word := k.x0 :: k.x1 :: k.x2 :: k.x3 :: expandRounds k cs

/-- Without its first word the schedule is that of the window moved on by one round (R36). -/
theorem scheduleWords_cons (k : Quad) (c : Word) (cs : List Word) :
    scheduleWords k (c :: cs) = k.x0 :: scheduleWords ⟨k.x1, k.x2, k.x3, nextKeyWord k c⟩ cs := rfl

theorem scheduleWords_recurrence (k : Quad) (cs : List Word) {i : Nat} (hi : i < cs.length) :
    (scheduleWords k cs).getD (i + 4) 0 = (scheduleWords k cs).getD i 0 ^^^ tKey ((scheduleWords k cs).getD (i + 1) 0 ^^^
      (scheduleWords k cs).getD (i + 2) 0 ^^^ (scheduleWords k cs).getD (i + 3) 0 ^^^ cs[i]) := by
  induction cs generalizing k i with
  | nil => contradiction
  | cons c cs ih =>
    cases i with
    | zero => rfl
    | succ i =>
      rw [scheduleWords_cons]
      exact ih _ (Nat.lt_of_succ_lt_succ hi)

/-- The subkeys are the words after the start window. -/
theorem getElem_expandKey (key : List Byte) (i : Fin 32) :
    (expandKey key)[i] = (scheduleWords (keyWindow key) ck.toList).getD (i.val + 4) 0 := by
  have hi : i.val < (expandRounds (keyWindow key) ck.toList).length := by simp [expandRounds_length]
  exact (List.getD_eq_getElem _ 0 hi).symm

/-! ## `KEYEXP` (R134) -/

section Keyexp

variable {s t : State} {r : PortRegs} {sp : Bool} {c : Nat} {o : BufferOperands} {cfg : Config}

theorem keyexpError_of_absent (c : Nat) (o : BufferOperands) (cfg : Config) :
    keyexpError false c o cfg = some .invalidArgument := rfl

theorem keyexpError_of_length (hlen : o.slen ≠ 16) : keyexpError true c o cfg = some .invalidKeyLength := by
  simp [keyexpError, hlen]

theorem keyexpError_of_slot (hlen : o.slen = 16) (hc : cfg.nctx ≤ c) :
    keyexpError true c o cfg = some .invalidArgument := by
  simp [keyexpError, hlen, hc]

/-- The slot check need not have passed here, for it gives the same code. -/
theorem keyexpError_of_range (hlen : o.slen = 16) (hsrc : cfg.bufBytes < o.src + 16) :
    keyexpError true c o cfg = some .invalidArgument := by
  simp [keyexpError, inRange, hlen, hsrc]

/-- With or without an error, `KEYEXP` changes `STATUS` of its port and at most the slot it names (R32). -/
theorem execKeyexp_frame (hr : s.issuingPort = some r) (h : execKeyexp sp c s = .next t) :
    ∃ sl k, t = { s.withStatus r k with slots := sl } ∧ ∀ c', c' ≠ c → sl[c']? = s.slots[c']? := by
  obtain ⟨r', hr', hcases⟩ := execKeyexp_cases h
  obtain rfl : r = r' := Option.some.inj (hr.symm.trans hr')
  obtain ⟨e, -, rfl⟩ | ⟨-, rfl⟩ := hcases
  · exact ⟨s.slots, e.code, rfl, fun _ _ => rfl⟩
  · exact ⟨_, .ok, rfl, fun _ hc' => List.getElem?_set_ne hc'.symm⟩

end Keyexp

/-! ## The obligations of `41_key_schedule.md` -/

/-- Settles O16: the words are those of the schedule with its start window in front, and the recurrence is by induction on the
round constants. -/
theorem keyScheduleRecurrence : Obligations.KeyScheduleRecurrence := by
  refine fun key _ => ⟨fun n => (scheduleWords (keyWindow key) ck.toList).getD n 0, fun j => ?_,
    fun i => scheduleWords_recurrence _ _ i.isLt, getElem_expandKey key⟩
  fin_cases j <;> rfl

/-- Settles O25: all four checks pass. -/
theorem keyexpLoadsSlot : Obligations.KeyexpLoadsSlot := fun _ _ _ hr _ hlen hc hsrc =>
  execKeyexp_of_ok hr ((keyexpError_eq_none_iff ..).2 ⟨rfl, hlen, hc, hsrc⟩)

/-- Settles O26, one check after the other. -/
theorem keyexpErrorOrder : Obligations.KeyexpErrorOrder := by
  intro s r sp c hr
  refine ⟨?_, ?_, ?_, ?_⟩
  · rintro rfl
    exact execKeyexp_of_error hr (keyexpError_of_absent c ..)
  · rintro ⟨rfl, hlen⟩
    exact execKeyexp_of_error hr (keyexpError_of_length hlen)
  · rintro ⟨rfl, hlen, hc⟩
    exact execKeyexp_of_error hr (keyexpError_of_slot hlen hc)
  · rintro ⟨rfl, hlen, -, hsrc⟩
    exact execKeyexp_of_error hr (keyexpError_of_range hlen hsrc)

/-- Settles O28: only `STATUS` of its port and the named slot can differ. -/
theorem keyexpFrame : Obligations.KeyexpFrame := by
  intro s t r sp c hr h
  obtain ⟨sl, k, rfl, hsl⟩ := execKeyexp_frame hr h
  exact ⟨exec_sameHostSide h, fun _ => rfl, rfl, rfl, hsl, fun _ hp => List.getElem?_set_ne hp.symm,
    k, issuingPort_withStatus hr k⟩

/-- Settles O14, by evaluating the 128 bytes. -/
theorem roundConstantFormula : Obligations.RoundConstantFormula := by
  unfold Obligations.RoundConstantFormula
  decide

end Sys2Proof.Machine

/-! # Proofs: the reference engine and the crypt commands

The laws the obligations of `42_reference_engine.md` rest on: the rounds as a sliding window and undone in reverse order, byte
ranges of `BUF`, the checks of a crypt command, and what a crypt command that passes them leaves. The obligations follow. -/

namespace Sys2Proof.Machine

/-! ## The rounds (R146 to R149) -/

/-- The sequence of words with a word put in front. -/
def prependWord (w : Word) (X : Nat → Word) : Nat → Word
  | 0 => w
  | n + 1 => X n

/-- The state register is a window of four words that moves on by one word per round, over any sequence of round indices. -/
theorem exists_slidingWindow (td : Word → Word) (rk : RoundKeys) (order : List (Fin 32)) (x : Quad) :
    ∃ X : Nat → Word, (⟨X 0, X 1, X 2, X 3⟩ : Quad) = x ∧
      (∀ (i : Nat) (hi : i < order.length),
        X (i + 4) = X i ^^^ td (X (i + 1) ^^^ X (i + 2) ^^^ X (i + 3) ^^^ rk[order[i]])) ∧
      order.foldl (fun x i => roundStep td x rk[i]) x =
        ⟨X order.length, X (order.length + 1), X (order.length + 2), X (order.length + 3)⟩ := by
  induction order generalizing x with
  | nil => exact ⟨prependWord x.x0 (prependWord x.x1 (prependWord x.x2 fun _ => x.x3)), rfl,
      fun i hi => absurd hi (Nat.not_lt_zero i), rfl⟩
  | cons k order ih =>
    obtain ⟨X, hX, hround, hlast⟩ := ih (roundStep td x rk[k])
    obtain ⟨h0, h1, h2, h3⟩ := Quad.mk.inj hX
    refine ⟨prependWord x.x0 X, by simp only [prependWord, h0, h1, h2], fun i hi => ?_, hlast⟩
    cases i with
    | zero => simp only [prependWord, List.getElem_cons_zero, h0, h1, h2, h3]
    | succ i => exact hround i (Nat.lt_of_succ_lt_succ hi)

@[simp] theorem reverseQuad_reverseQuad (x : Quad) : reverseQuad (reverseQuad x) = x := rfl

/-- A round on the reversed register with the same subkey takes the round back. -/
theorem roundStep_reverseQuad_roundStep (td : Word → Word) (x : Quad) (k : Word) :
    roundStep td (reverseQuad (roundStep td x k)) k = reverseQuad x := by
  have hmix : x.x3 ^^^ x.x2 ^^^ x.x1 ^^^ k = x.x1 ^^^ x.x2 ^^^ x.x3 ^^^ k := by ac_rfl
  simp only [roundStep, reverseQuad, hmix, BitVec.xor_assoc x.x0, BitVec.xor_self, BitVec.xor_zero]

/-- So do the rounds with the subkeys in the reverse order. -/
theorem foldl_roundStep_reverse (td : Word → Word) (rk : RoundKeys) (order : List (Fin 32)) (x : Quad) :
    order.reverse.foldl (fun x i => roundStep td x rk[i])
      (reverseQuad (order.foldl (fun x i => roundStep td x rk[i]) x)) = reverseQuad x := by
  induction order generalizing x with
  | nil => rfl
  | cons i order ih =>
    rw [List.reverse_cons, List.foldl_append, List.foldl_cons (a := i) (l := order), ih]
    exact roundStep_reverseQuad_roundStep td x rk[i]

/-- Two directions whose round orders are each other's reverse undo each other. -/
theorem cryptBlock_cryptBlock {dir dir' : Direction} (hdir : roundOrder dir' = (roundOrder dir).reverse)
    (td : Word → Word) (rk : RoundKeys) {blk : List Byte} (hblk : blk.length = 16) :
    cryptBlock td rk dir' (cryptBlock td rk dir blk) = blk := by
  have hwalk (x : Quad) : roundWalk td rk dir' (reverseQuad (roundWalk td rk dir x)) = reverseQuad x := by
    rw [roundWalk, hdir]
    exact foldl_roundStep_reverse td rk (roundOrder dir) x
  rw [cryptBlock, cryptBlock, loadBlock_storeBlock, hwalk, reverseQuad_reverseQuad, storeBlock_loadBlock hblk]

theorem roundOrder_dec : roundOrder .dec = (roundOrder .enc).reverse := rfl

theorem roundOrder_enc : roundOrder .enc = (roundOrder .dec).reverse := (List.reverse_reverse _).symm

/-! ## Byte ranges of `BUF` and their blocks (R86) -/

/-- Two reads give the same string exactly when every byte of the range is the same. -/
theorem memRead_eq_iff (s t : State) (a n : Nat) :
    s.memRead a n = t.memRead a n ↔ ∀ x, a ≤ x → x < a + n → s.bufByte x = t.bufByte x := by
  simp only [State.memRead, List.map_inj_left, List.mem_range]
  refine ⟨fun h x hax hxn => ?_, fun h i hi => h (a + i) (by omega) (by omega)⟩
  have := h (x - a) (by omega)
  rwa [Nat.add_sub_cancel' hax] at this

/-- What has just been written is read back. -/
theorem memRead_memWrite_same {s : State} (hm : s.buf.wf) (a : Nat) (v : List Byte) :
    (s.memWrite a v).memRead a v.length = v := by
  simpa using memRead_memWrite_inside s a v 0 v.length hm (by omega)

theorem length_of_mem_splitBlocks {n : Nat} {v blk : List Byte} (hv : v.length = 16 * n) (h : blk ∈ splitBlocks n v) :
    blk.length = 16 := by
  induction n generalizing v with
  | zero => cases h
  | succ n ih =>
    obtain rfl | h := List.mem_cons.1 h
    · rw [List.length_take]; omega
    · exact ih (by rw [List.length_drop]; omega) h

/-- A string of `n` blocks is its blocks packed. -/
theorem flatten_splitBlocks {n : Nat} {v : List Byte} (hv : v.length = 16 * n) : (splitBlocks n v).flatten = v := by
  induction n generalizing v with
  | zero => exact (List.eq_nil_of_length_eq_zero hv).symm
  | succ n ih => rw [splitBlocks, List.flatten_cons, ih (by rw [List.length_drop]; omega), List.take_append_drop]

/-- Packed blocks are cut apart again. -/
theorem splitBlocks_flatten {blocks : List (List Byte)} (h : ∀ blk ∈ blocks, blk.length = 16) :
    splitBlocks blocks.length blocks.flatten = blocks := by
  induction blocks with
  | nil => rfl
  | cons blk blocks ih =>
    obtain ⟨hblk, hblocks⟩ := List.forall_mem_cons.1 h
    rw [List.length_cons, splitBlocks, List.flatten_cons, List.take_left' hblk, List.drop_left' hblk, ih hblocks]

/-! ## The bytes a crypt command writes -/

/-- The blocks of the output are those of the source, each by the reference rounds. -/
theorem splitBlocks_cryptOutput (s : State) (dir : Direction) (rk : RoundKeys) (o : BufferOperands) :
    splitBlocks o.blockCount (s.cryptOutput dir rk o) =
      (splitBlocks o.blockCount (s.memRead o.src (16 * o.blockCount))).map (cryptBlock tData rk dir) := by
  have hsplit := splitBlocks_flatten (blocks :=
    (splitBlocks o.blockCount (s.memRead o.src (16 * o.blockCount))).map (cryptBlock tData rk dir)) (by simp)
  rwa [List.length_map, splitBlocks_length] at hsplit

theorem cryptOutput_single (s : State) (dir : Direction) (rk : RoundKeys) {o : BufferOperands} (h : o.slen = 16) :
    s.cryptOutput dir rk o = cryptBlock tData rk dir (s.memRead o.src 16) := by
  have hone : o.blockCount = 1 := by rw [BufferOperands.blockCount, h]
  simp [State.cryptOutput, hone, splitBlocks, List.take_of_length_le]

/-- Encrypting, and decrypting the result from where it stands, gives the source bytes. -/
theorem cryptOutput_dec_of_memRead_eq {s t : State} {rk : RoundKeys} {o : BufferOperands}
    (h : t.memRead o.src (16 * o.blockCount) = s.cryptOutput .enc rk o) :
    t.cryptOutput .dec rk o = s.memRead o.src (16 * o.blockCount) := by
  have hlen : (s.memRead o.src (16 * o.blockCount)).length = 16 * o.blockCount := length_memRead ..
  have hundo : ∀ blk ∈ splitBlocks o.blockCount (s.memRead o.src (16 * o.blockCount)),
      (cryptBlock tData rk .dec ∘ cryptBlock tData rk .enc) blk = blk :=
    fun blk hblk => cryptBlock_cryptBlock roundOrder_dec tData rk (length_of_mem_splitBlocks hlen hblk)
  rw [State.cryptOutput, h, splitBlocks_cryptOutput, List.map_map, List.map_congr_left hundo, List.map_id',
    flatten_splitBlocks hlen]

/-! ## The checks of a crypt command (R150) -/

theorem context_eq_some_iff (s : State) (c : Nat) (rk : RoundKeys) :
    s.context c = some rk ↔ c < s.cfg.nctx ∧ s.slots[c]? = some (some rk) := by
  simp [State.context, Option.join_eq_some_iff]

/-- The checks read the context, the operands and the size of `BUF`, and nothing else (R154). -/
theorem cryptCheck_congr {s s' : State} {c : Nat} (arity : Arity) (dp sp : Bool) (o : BufferOperands)
    (hbytes : s.cfg.bufBytes = s'.cfg.bufBytes) (hctx : s.context c = s'.context c) :
    cryptCheck arity dp sp c o s = cryptCheck arity dp sp c o s' := by
  have hrange (a n : Nat) : inRange s.cfg a n = inRange s'.cfg a n := by simp only [inRange, hbytes]
  simp only [cryptCheck, hrange, hctx]

/-! ## What a crypt command leaves (R150, R152, R153) -/

/-- `t` is what a crypt command of the port with registers `r`, under the round keys `rk`, leaves of `s` where it passes its
checks; `uses` says whether it needed the tables. -/
structure State.Crypted (s : State) (r : PortRegs) (dir : Direction) (rk : RoundKeys) (uses : Bool) (t : State) : Prop where
  output : t.memRead r.operands.dst r.operands.dlen = s.cryptOutput dir rk r.operands
  outside : ∀ a, a < r.operands.dst ∨ r.operands.dst + r.operands.dlen ≤ a → t.bufByte a = s.bufByte a
  ports : t.ports = s.ports.set s.issuer { r with done := true, err := .ok }
  slots : t.slots = s.slots
  hostSide : s.SameHostSide t
  tables : s.TablesAfter uses t

section CryptCommands

variable {s t : State} {r : PortRegs} {rk : RoundKeys} {arity : Arity} {dir : Direction} {eng : Engine} {dp sp : Bool}
  {c : Nat}

theorem tablesAfter_prepareTransform (hs : s.Inv) (eng : Engine) :
    s.TablesAfter (usesTables s.cfg eng) (prepareTransform eng s).2 := by
  rw [prepareTransform_eq eng hs.tablesBuilt, State.TablesAfter]
  split
  · exact ⟨rfl, rfl⟩
  · exact ⟨rfl, rfl⟩

/-- An empty batch leaves what writing the empty string leaves (R191). -/
theorem crypted_of_empty (hlen : r.operands.GoodLengths arity) (hn : r.operands.blockCount = 0) :
    s.Crypted r dir rk (usesTables s.cfg eng && decide (r.operands.blockCount ≠ 0)) (s.withStatus r .ok) where
  output := by simp [dlen_eq_of_goodLengths hlen, hn, State.memRead, State.cryptOutput, splitBlocks]
  outside _ _ := rfl
  ports := rfl
  slots := rfl
  hostSide := ⟨rfl, rfl, rfl, rfl, rfl⟩
  tables := by simp [hn, State.TablesAfter]

/-- With at least one block the output stands in the destination, whatever the engine. -/
theorem crypted_of_blocks (hs : s.Inv) (hlen : r.operands.GoodLengths arity) (hn : r.operands.blockCount ≠ 0) :
    s.Crypted r dir rk (usesTables s.cfg eng && decide (r.operands.blockCount ≠ 0))
      ((cryptBuffers eng dir rk r.operands s).withStatus r .ok) := by
  have hdlen : r.operands.dlen = (s.cryptOutput dir rk r.operands).length := by
    rw [length_cryptOutput, dlen_eq_of_goodLengths hlen]
  have hbyte (a : Nat) : ((cryptBuffers eng dir rk r.operands s).withStatus r .ok).bufByte a =
      (s.memWrite r.operands.dst (s.cryptOutput dir rk r.operands)).bufByte a := by
    rw [cryptBuffers_eq_memWrite eng dir rk _ hs, prepareTransform_frame]
    rfl
  constructor
  case output =>
    rw [hdlen]
    exact ((memRead_eq_iff ..).2 fun a _ _ => hbyte a).trans (memRead_memWrite_same hs.bufWf _ _)
  case outside =>
    intro a ha
    rw [hbyte, bufByte_memWrite_outside s _ _ a hs.bufWf (hdlen ▸ ha)]
  case tables =>
    rw [decide_eq_true hn, Bool.and_true, cryptBuffers_eq_memWrite eng dir rk _ hs]
    exact tablesAfter_prepareTransform hs eng
  case ports => rw [cryptBuffers_frame]; rfl
  case slots => rw [cryptBuffers_frame]; rfl
  case hostSide => rw [cryptBuffers_frame]; exact ⟨rfl, rfl, rfl, rfl, rfl⟩

/-- A crypt command whose checks pass completes, and this is what it leaves. -/
theorem exec_crypts (hs : s.Inv) (hr : s.issuingPort = some r) (hc : cryptCheck arity dp sp c r.operands s = .ok rk)
    (dir : Direction) (eng : Engine) : ∃ t, exec (cryptInstr arity dir eng dp sp c) s = .next t ∧
      s.Crypted r dir rk (usesTables s.cfg eng && decide (r.operands.blockCount ≠ 0)) t := by
  obtain ⟨-, -, -, hlen, -⟩ := (cryptCheck_ok_iff ..).1 hc
  rw [exec_cryptInstr]
  by_cases hn : r.operands.blockCount = 0
  · exact ⟨_, execCrypt_of_empty hr hc hn, crypted_of_empty hlen hn⟩
  · exact ⟨_, execCrypt_of_blocks hr hc hn, crypted_of_blocks hs hlen hn⟩

/-- A crypt command that answers after a failed check has only reported it. -/
theorem eq_withStatus_of_exec {e : CommandError} (hr : s.issuingPort = some r)
    (hc : cryptCheck arity dp sp c r.operands s = .error e) (h : exec (cryptInstr arity dir eng dp sp c) s = .next t) :
    t = s.withStatus r .invalidArgument := by
  rw [exec_cryptInstr, execCrypt_of_error hr hc] at h
  injection h with h
  exact h.symm

/-- A crypt command that answers after its checks passed has done its work. -/
theorem crypted_of_exec (hs : s.Inv) (hr : s.issuingPort = some r)
    (hc : cryptCheck arity dp sp c r.operands s = .ok rk) (h : exec (cryptInstr arity dir eng dp sp c) s = .next t) :
    s.Crypted r dir rk (usesTables s.cfg eng && decide (r.operands.blockCount ≠ 0)) t := by
  obtain ⟨t', ht', hdone⟩ := exec_crypts hs hr hc dir eng
  rw [h] at ht'
  injection ht' with ht'
  exact ht' ▸ hdone

/-- The registers of a port just written are those of the issuing port. -/
theorem issuingPort_of_ports {q : PortRegs} (hr : s.issuingPort = some r) (hp : t.ports = s.ports.set s.issuer q)
    (hi : t.issuer = s.issuer) : t.issuingPort = some q := by
  have hlt : s.issuer < s.ports.length := (List.getElem?_eq_some_iff.1 hr).1
  simp [State.issuingPort, hp, hi, hlt]

theorem State.Crypted.issuingPort {uses : Bool} (h : s.Crypted r dir rk uses t) (hr : s.issuingPort = some r) :
    t.issuingPort = some { r with done := true, err := .ok } := by
  obtain ⟨-, -, hissuer, -, -⟩ := h.hostSide
  exact issuingPort_of_ports hr h.ports hissuer

theorem State.Crypted.context {uses : Bool} (h : s.Crypted r dir rk uses t) (c : Nat) : t.context c = s.context c := by
  obtain ⟨hcfg, -⟩ := h.hostSide
  exact context_congr hcfg h.slots c

/-- A single-block command writes the one source block by the reference rounds. -/
theorem exec_single_crypts (hs : s.Inv) (hr : s.issuingPort = some r) (hctx : s.context c = some rk)
    (hslen : r.operands.slen = 16) (hdlen : r.operands.dlen = 16) (hgood : r.operands.Good s.cfg) (dir : Direction)
    (eng : Engine) : ∃ t, exec (cryptInstr .single dir eng true true c) s = .next t ∧
      t.memRead r.operands.dst 16 = cryptBlock tData rk dir (s.memRead r.operands.src 16) ∧
      (∀ a, a < r.operands.dst ∨ r.operands.dst + 16 ≤ a → t.bufByte a = s.bufByte a) ∧
      t.ports = s.ports.set s.issuer { r with done := true, err := .ok } ∧
      t.slots = s.slots ∧ s.SameHostSide t ∧ s.TablesAfter (usesTables s.cfg eng) t := by
  have hc : cryptCheck .single true true c r.operands s = .ok rk :=
    (cryptCheck_ok_iff ..).2 ⟨rfl, rfl, hctx, ⟨hslen, hdlen⟩, hgood⟩
  have hn : r.operands.blockCount ≠ 0 := by rw [BufferOperands.blockCount, hslen]; decide
  obtain ⟨t, ht, houtput, houtside, hports, hslots, hhost, htables⟩ := exec_crypts hs hr hc dir eng
  rw [hdlen] at houtput houtside
  rw [cryptOutput_single s dir rk hslen] at houtput
  rw [decide_eq_true hn, Bool.and_true] at htables
  exact ⟨t, ht, houtput, houtside, hports, hslots, hhost, htables⟩

end CryptCommands

/-! ## The obligations of `42_reference_engine.md` -/

/-- Settles O17: encryption takes the round keys in their order, so the window's words are those of the rounds. -/
theorem slidingWindowForm : Obligations.SlidingWindowForm := by
  intro rk blk _
  obtain ⟨X, hload, hround, hlast⟩ := exists_slidingWindow tData rk (List.finRange 32) (loadBlock blk)
  refine ⟨X, hload, fun i => ?_, ?_⟩
  · simpa using hround i.val (by simp)
  · rw [cryptBlock, roundWalk, roundOrder, hlast, List.length_finRange]
    rfl

/-- Settles O18: each direction takes the round keys in the other's reverse order. -/
theorem decryptionInvertsEncryption : Obligations.DecryptionInvertsEncryption := fun td rk _ hblk =>
  ⟨cryptBlock_cryptBlock roundOrder_dec td rk hblk, cryptBlock_cryptBlock roundOrder_enc td rk hblk⟩

/-- Settles O29: the three commands are the single-block encryption by their engine. -/
theorem enc1Encrypts : Obligations.Enc1Encrypts := by
  rintro s r rk c hs hr hctx hslen hdlen hgood i uses (⟨rfl, rfl⟩ | ⟨rfl, rfl⟩ | ⟨rfl, rfl⟩)
  · exact exec_single_crypts hs hr hctx hslen hdlen hgood .enc .ref
  · exact exec_single_crypts hs hr hctx hslen hdlen hgood .enc .tab
  · exact exec_single_crypts hs hr hctx hslen hdlen hgood .enc .bat

/-- Settles O30: the three commands are the single-block decryption by their engine. -/
theorem dec1Decrypts : Obligations.Dec1Decrypts := by
  rintro s r rk c hs hr hctx hslen hdlen hgood i uses (⟨rfl, rfl⟩ | ⟨rfl, rfl⟩ | ⟨rfl, rfl⟩)
  · exact exec_single_crypts hs hr hctx hslen hdlen hgood .dec .ref
  · exact exec_single_crypts hs hr hctx hslen hdlen hgood .dec .tab
  · exact exec_single_crypts hs hr hctx hslen hdlen hgood .dec .bat

/-- Settles O34: were the checks to pass, none of the causes would hold. -/
theorem cryptRejectsBadArguments : Obligations.CryptRejectsBadArguments := by
  intro s r arity dir eng dp sp c hr hbad
  rw [exec_cryptInstr]
  cases hc : cryptCheck arity dp sp c r.operands s with
  | error e => exact execCrypt_of_error hr hc
  | ok rk =>
    obtain ⟨rfl, rfl, hctx, hlen, hgood⟩ := (cryptCheck_ok_iff ..).1 hc
    obtain ⟨hslot, hvalid⟩ := (context_eq_some_iff ..).1 hctx
    obtain h | h | h | h | h | h := hbad
    · cases h
    · cases h
    · exact absurd hslot (Nat.not_lt.2 h)
    · rw [hvalid] at h
      cases h
    · exact absurd hlen h
    · exact absurd hgood h

/-- Settles O35: a rejected command changes `STATUS` only, and one that does its work writes its destination. -/
theorem cryptFrame : Obligations.CryptFrame := by
  intro s t r arity dir eng dp sp c hs hr h
  cases hc : cryptCheck arity dp sp c r.operands s with
  | error e =>
    obtain rfl := eq_withStatus_of_exec hr hc h
    exact ⟨exec_sameHostSide h, rfl, fun p hp => List.getElem?_set_ne hp.symm, ⟨_, issuingPort_withStatus hr _⟩,
      fun _ _ => rfl⟩
  | ok rk =>
    have hdone := crypted_of_exec hs hr hc h
    exact ⟨hdone.hostSide, hdone.slots, fun p hp => by rw [hdone.ports, List.getElem?_set_ne hp.symm],
      ⟨_, hdone.issuingPort hr⟩, hdone.outside⟩

/-- Settles O39: the checks agree, and where they pass the outputs are the same function of the same source bytes. -/
theorem cryptDependsOnOperandsOnly : Obligations.CryptDependsOnOperandsOnly := by
  intro s s' t t' r r' q q' arity dir eng eng' dp sp c hs hs' hr hr' hbytes hops hctx hsrc h h' hq hq'
  have hcheck : cryptCheck arity dp sp c r.operands s = cryptCheck arity dp sp c r'.operands s' :=
    hops ▸ cryptCheck_congr arity dp sp r.operands hbytes hctx
  cases hc : cryptCheck arity dp sp c r.operands s with
  | error e =>
    obtain rfl := eq_withStatus_of_exec hr hc h
    obtain rfl := eq_withStatus_of_exec hr' (hcheck ▸ hc) h'
    obtain rfl := Option.some.inj ((issuingPort_withStatus hr _).symm.trans hq)
    obtain rfl := Option.some.inj ((issuingPort_withStatus hr' _).symm.trans hq')
    exact ⟨rfl, fun hok => nomatch hok⟩
  | ok rk =>
    have hdone := crypted_of_exec hs hr hc h
    have hdone' := crypted_of_exec hs' hr' (hcheck ▸ hc) h'
    obtain rfl := Option.some.inj ((hdone.issuingPort hr).symm.trans hq)
    obtain rfl := Option.some.inj ((hdone'.issuingPort hr').symm.trans hq')
    have hread : s.memRead r.operands.src (16 * r.operands.blockCount) =
        s'.memRead r.operands.src (16 * r.operands.blockCount) :=
      (memRead_eq_iff ..).2 fun a ha hlt =>
        hsrc a ha (Nat.lt_of_lt_of_le hlt (Nat.add_le_add_left (Nat.mul_div_le ..) _))
    have houtput : t.memRead r.operands.dst r.operands.dlen = t'.memRead r.operands.dst r.operands.dlen := by
      rw [hdone.output, hops, hdone'.output, ← hops, State.cryptOutput, hread, State.cryptOutput]
    exact ⟨rfl, fun _ => (memRead_eq_iff ..).1 houtput⟩

/-- Settles O40: the second command reads what the first has written, and the destination of both is the source. -/
theorem decryptCommandUndoesEncrypt : Obligations.DecryptCommandUndoesEncrypt := by
  intro s r arity eng eng' c hs hr hvalid hdst hlen hgood
  obtain ⟨rk, hctx⟩ := Option.isSome_iff_exists.1 hvalid
  obtain ⟨t, ht, henc⟩ := exec_crypts hs hr ((cryptCheck_ok_iff ..).2 ⟨rfl, rfl, hctx, hlen, hgood⟩) .enc eng
  obtain ⟨hcfg, -⟩ := henc.hostSide
  obtain ⟨u, hu, hdec⟩ := exec_crypts (exec_keeps_inv hs ht) (henc.issuingPort hr)
    ((cryptCheck_ok_iff ..).2 ⟨rfl, rfl, (henc.context c).trans hctx, hlen, hcfg ▸ hgood⟩) .dec eng'
  have hread : t.memRead r.operands.src (16 * r.operands.blockCount) = s.cryptOutput .enc rk r.operands := by
    rw [← hdst, ← dlen_eq_of_goodLengths hlen]
    exact henc.output
  have hback : u.memRead r.operands.dst r.operands.dlen = s.memRead r.operands.dst r.operands.dlen := by
    calc u.memRead r.operands.dst r.operands.dlen
      _ = t.cryptOutput .dec rk r.operands := hdec.output
      _ = s.memRead r.operands.src (16 * r.operands.blockCount) := cryptOutput_dec_of_memRead_eq hread
      _ = s.memRead r.operands.dst r.operands.dlen := by rw [hdst, dlen_eq_of_goodLengths hlen]
  refine ⟨t, u, ht, hu, fun a => ?_⟩
  by_cases hout : a < r.operands.dst ∨ r.operands.dst + r.operands.dlen ≤ a
  · exact (hdec.outside a hout).trans (henc.outside a hout)
  · exact (memRead_eq_iff ..).1 hback a (by omega) (by omega)

end Sys2Proof.Machine

/-! # Proofs: the merged-table engine

The laws the obligations of `43_merged_table_engine.md` rest on: the entries of the tables as rotations of those of table 0, the
guard under the invariant, and when a command builds the tables. The obligations follow. -/

namespace Sys2Proof.Machine

/-! ## The entries of the tables (R165, R171) -/

/-- Lane `k` lies `8k` bits to the right of lane 0. -/
theorem placeLane_eq_rotl (k : Fin 4) (b : Byte) :
    placeLane k b = rotl (placeLane 0 b) (Fin.ofNat 32 (32 - 8 * k.val)) := by
  refine BitVec.eq_of_getLsbD_eq fun i hi => ?_
  have hsrc : (i + 32 - (Fin.ofNat 32 (32 - 8 * k.val)).val) % 32 = (i + 8 * k.val) % 32 := by
    rw [Fin.val_ofNat]; omega
  have hlane0 : (placeLane 0 b).getLsbD ((i + 8 * k.val) % 32) =
      (decide (24 ≤ (i + 8 * k.val) % 32) && b.getLsbD ((i + 8 * k.val) % 32 - 24)) :=
    getLsbD_placeLane 0 b _ (Nat.mod_lt _ (by decide))
  rw [getLsbD_rotl _ _ hi, hsrc, getLsbD_placeLane k b i hi, hlane0]
  by_cases hwrap : i + 8 * k.val < 32
  · have hlow : 24 - 8 * k.val ≤ i ↔ 24 ≤ i + 8 * k.val := by omega
    have hbit : i - (24 - 8 * k.val) = i + 8 * k.val - 24 := by omega
    rw [Nat.mod_eq_of_lt hwrap, decide_eq_decide.2 hlow, hbit]
  · -- such a bit lies left of lane `k`, and comes from below lane 0
    rw [BitVec.getLsbD_of_ge b _ (by omega), Bool.and_false, decide_eq_false (by omega), Bool.false_and]

/-- `LData` commutes with rotation, so the entries are rotated as the lanes are. -/
theorem tableEntry_eq_rotl (k : Fin 4) (v : Byte) :
    tableEntry k v = rotl (tableEntry 0 v) (Fin.ofNat 32 (32 - 8 * k.val)) := by
  rw [tableEntry, placeLane_eq_rotl, lData_rotl, tableEntry]

/-! ## The guard (R166, R167) -/

theorem ensureTables_of_some {s : State} {t : Tables} (h : s.tables = some t) : ensureTables s = (t, s) := by
  simp only [ensureTables, h]

/-- Under the invariant the count is 1 after the guard, whether it was so before or the guard has built the tables (R41). -/
theorem ensureTables_of_inv {s : State} (hs : s.Inv) :
    ensureTables s = (builtTables, { s with tables := some builtTables, tbuilds := 1 }) := by
  have hone : (if s.trdy then s.tbuilds else s.tbuilds + 1) = 1 := by
    rw [hs.buildsOnce]; cases s.trdy <;> rfl
  rw [ensureTables_eq hs.tablesBuilt, hone]

/-! ## When a command builds the tables (R172, R173) -/

theorem usesTables_iff (cfg : Config) (eng : Engine) :
    usesTables cfg eng = true ↔ eng = .tab ∨ eng = .bat ∧ 2 ≤ cfg.lanes := by
  cases eng <;> simp [usesTables]

section TableUse

variable {s t : State} {r r' : PortRegs}

theorem State.TablesAfter.trdy_iff {uses : Bool} (h : s.TablesAfter uses t) :
    t.trdy = true ↔ s.trdy = true ∨ uses = true := by
  cases uses with
  | false => obtain ⟨htables, -⟩ := h; simp [trdy_congr htables]
  | true => obtain ⟨htables, -⟩ := h; simp [State.trdy, htables]

theorem execKeyexp_trdy {sp : Bool} {c : Nat} (hr : s.issuingPort = some r) (h : execKeyexp sp c s = .next t) :
    t.trdy = s.trdy := by
  obtain ⟨sl, k, rfl, -⟩ := execKeyexp_frame hr h
  rfl

/-- A crypt command leaves the tables built if they were, or if it needed them: it used tables, passed its checks (so that both
buffers were present) and had a block to work on. -/
theorem exec_cryptInstr_trdy {arity : Arity} {dir : Direction} {eng : Engine} {dp sp : Bool} {c : Nat} (hs : s.Inv)
    (hr : s.issuingPort = some r) (h : exec (cryptInstr arity dir eng dp sp c) s = .next t)
    (hr' : t.issuingPort = some r') :
    t.trdy = true ↔ s.trdy = true ∨
      (dp = true ∧ sp = true) ∧ usesTables s.cfg eng = true ∧ r'.err = .ok ∧ 1 ≤ r.operands.blockCount := by
  cases hc : cryptCheck arity dp sp c r.operands s with
  | error e =>
    obtain rfl := eq_withStatus_of_exec hr hc h
    obtain rfl := Option.some.inj ((issuingPort_withStatus hr _).symm.trans hr')
    simp [State.trdy]
  | ok rk =>
    have hdone := crypted_of_exec hs hr hc h
    obtain rfl := Option.some.inj ((hdone.issuingPort hr).symm.trans hr')
    obtain ⟨rfl, rfl, -⟩ := (cryptCheck_ok_iff ..).1 hc
    simp [hdone.tables.trdy_iff, Nat.one_le_iff_ne_zero]

end TableUse

/-! ## The obligations of `43_merged_table_engine.md` -/

/-- Settles O21: 24, 16 and 8 are the amounts of lanes 1, 2 and 3. -/
theorem tablesAreRotations : Obligations.TablesAreRotations := by
  intro v
  simp only [lookupTable_builtTables]
  exact ⟨tableEntry_eq_rotl 1 v, tableEntry_eq_rotl 2 v, tableEntry_eq_rotl 3 v⟩

/-- Settles O22, by the linearity of `LData`. -/
theorem tableTransformIsDataTransform : Obligations.TableTransformIsDataTransform := congrFun tDataTab_builtTables

/-- Settles O24: the guard leaves the tables built, and where they are built it does nothing. -/
theorem ensureTablesOnce : Obligations.EnsureTablesOnce := by
  intro s hs
  rw [ensureTables_of_inv hs]
  exact ⟨rfl, rfl, ensureTables_of_some rfl⟩

/-- Settles O37: `KEYEXP` does not touch the tables, and a crypt command builds them when it needs them. -/
theorem tablesBuiltExactlyWhen : Obligations.TablesBuiltExactlyWhen := by
  intro i s t r r' hs hr h hr'
  constructor
  · intro ht
    obtain ⟨sp, c, rfl⟩ | ⟨arity, dir, eng, dp, sp, c, rfl⟩ := instr_cases i
    · exact .inl (execKeyexp_trdy hr h ▸ ht)
    · obtain hbuilt | ⟨⟨rfl, rfl⟩, huses, hok, hn⟩ := (exec_cryptInstr_trdy hs hr h hr').1 ht
      · exact .inl hbuilt
      · exact .inr ⟨arity, dir, eng, c, rfl, (usesTables_iff ..).1 huses, hok, hn⟩
  · rintro (hbuilt | ⟨arity, dir, eng, c, rfl, huses, hok, hn⟩)
    · obtain ⟨hkept, -⟩ | ⟨-, htables, -⟩ := exec_tables h
      · rwa [trdy_congr hkept]
      · simp [State.trdy, htables]
    · exact (exec_cryptInstr_trdy hs hr h hr').2 (.inr ⟨⟨rfl, rfl⟩, (usesTables_iff ..).2 huses, hok, hn⟩)

/-- Settles O20: an entry is read by its formula, and the examples are values of the formula. -/
theorem mergedTableEntries : Obligations.MergedTableEntries := by
  unfold Obligations.MergedTableEntries
  simp only [lookupTable_builtTables]
  exact ⟨fun _ _ => rfl, by decide, by decide, by decide, by decide, by decide, by decide, by decide⟩

end Sys2Proof.Machine

/-! # Proofs: the batch engine and the multi-block commands

The laws the obligations of `44_batch_engine.md` rest on: adjacent ranges of `BUF` and the blocks of a range, the parts of a
batch, and what a multi-block command leaves. The obligations follow. -/

namespace Sys2Proof.Machine

/-! ## Adjacent ranges and blocks of a range (R86) -/

/-- Two adjacent ranges read as one. -/
theorem memRead_append (s : State) (a n m : Nat) : s.memRead a (n + m) = s.memRead a n ++ s.memRead (a + n) m := by
  simp [State.memRead, List.range_add, Nat.add_assoc]

/-- Block `b` of a range is the 16 bytes from offset `16b` on. -/
theorem splitBlocks_memRead (s : State) (a n : Nat) :
    splitBlocks n (s.memRead a (16 * n)) = (List.range n).map fun b => s.memRead (a + 16 * b) 16 := by
  induction n generalizing a with
  | zero => rfl
  | succ n ih =>
    have hfirst : (s.memRead a 16).length = 16 := length_memRead ..
    have hrest (b : Nat) : a + 16 + 16 * b = a + 16 * (b + 1) := by omega
    rw [Nat.mul_succ, Nat.add_comm (16 * n), memRead_append, splitBlocks, List.take_left' hfirst, List.drop_left' hfirst,
      ih, List.range_succ_eq_map, List.map_cons, List.map_map]
    simp only [hrest]
    rfl

/-! ## The parts of a batch (R194) -/

/-- The operands of the batch over `n` blocks of a batch with operands `o`, from block `k` on. -/
def BufferOperands.part (o : BufferOperands) (k n : Nat) : BufferOperands :=
  ⟨o.src + 16 * k, 16 * n, o.dst + 16 * k, 16 * n⟩

namespace BufferOperands

variable {o : BufferOperands} {N : Nat}

@[simp] theorem blockCount_part (o : BufferOperands) (k n : Nat) : (o.part k n).blockCount = n :=
  Nat.mul_div_cancel_left n (by decide)

theorem goodLengths_part (o : BufferOperands) (k n : Nat) : (o.part k n).GoodLengths .batch :=
  ⟨Nat.mul_mod_right 16 n, rfl⟩

theorem part_zero_eq_self (hslen : o.slen = 16 * N) (hdlen : o.dlen = o.slen) : o.part 0 N = o := by
  obtain ⟨src, slen, dst, dlen⟩ := o
  obtain rfl : slen = 16 * N := hslen
  obtain rfl : dlen = 16 * N := hdlen
  rfl

/-- Parts of ranges that are in `BUF` and identical or disjoint are so too. -/
theorem Good.part {cfg : Config} (h : (o.part 0 N).Good cfg) {k n : Nat} (hk : k + n ≤ N) : (o.part k n).Good cfg := by
  simp only [Good, BufferOperands.part] at h ⊢
  omega

end BufferOperands

/-- The output of a part, block by block. -/
theorem cryptOutput_part (s : State) (dir : Direction) (rk : RoundKeys) (o : BufferOperands) (k n : Nat) :
    s.cryptOutput dir rk (o.part k n) =
      ((List.range n).map fun b => cryptBlock tData rk dir (s.memRead (o.src + 16 * (k + b)) 16)).flatten := by
  rw [State.cryptOutput, BufferOperands.blockCount_part, splitBlocks_memRead, List.map_map]
  simp only [BufferOperands.part, Nat.mul_add, Nat.add_assoc, Function.comp_def]

/-- The output of a batch is the outputs of its parts, one after the other. -/
theorem cryptOutput_part_add (s : State) (dir : Direction) (rk : RoundKeys) (o : BufferOperands) (k n m : Nat) :
    s.cryptOutput dir rk (o.part k (n + m)) =
      s.cryptOutput dir rk (o.part k n) ++ s.cryptOutput dir rk (o.part (k + n) m) := by
  simp only [cryptOutput_part, List.range_add, List.map_append, List.flatten_append, List.map_map, Function.comp_def,
    Nat.add_assoc]

/-- `BUF` of `t` is that of `s` with the output of a batch with operands `o` in its destination. -/
structure State.BufCrypted (s : State) (o : BufferOperands) (dir : Direction) (rk : RoundKeys) (t : State) : Prop where
  output : t.memRead o.dst o.dlen = s.cryptOutput dir rk o
  outside : ∀ a, a < o.dst ∨ o.dst + o.dlen ≤ a → t.bufByte a = s.bufByte a

theorem State.Crypted.bufCrypted {s t : State} {r : PortRegs} {dir : Direction} {rk : RoundKeys} {uses : Bool}
    (h : s.Crypted r dir rk uses t) : s.BufCrypted r.operands dir rk t :=
  ⟨h.output, h.outside⟩

section BatchParts

variable {s t t' u : State} {o : BufferOperands} {dir : Direction} {rk : RoundKeys} {n m : Nat} {cfg : Config}

/-- The first part of a batch leaves the source of the second as it was: the destination of the first part ends before that
source, or lies apart from it. -/
theorem State.BufCrypted.cryptOutput_rest (h : s.BufCrypted (o.part 0 n) dir rk t) (hgood : (o.part 0 (n + m)).Good cfg) :
    t.cryptOutput dir rk (o.part n m) = s.cryptOutput dir rk (o.part n m) := by
  have hread : t.memRead (o.part n m).src (16 * m) = s.memRead (o.part n m).src (16 * m) := by
    refine (memRead_eq_iff ..).2 fun a ha hlt => h.outside a ?_
    simp only [BufferOperands.part, BufferOperands.Good] at ha hlt hgood ⊢
    omega
  rw [State.cryptOutput, BufferOperands.blockCount_part, hread, State.cryptOutput, BufferOperands.blockCount_part]

/-- One part of a batch after the other is the whole, as far as `BUF` goes (R194). -/
theorem State.BufCrypted.append (hfirst : s.BufCrypted (o.part 0 n) dir rk t) (hsecond : t.BufCrypted (o.part n m) dir rk t')
    (hgood : (o.part 0 (n + m)).Good cfg) : s.BufCrypted (o.part 0 (n + m)) dir rk t' := by
  have hkept : t'.memRead o.dst (16 * n) = t.memRead o.dst (16 * n) :=
    (memRead_eq_iff ..).2 fun x _ hx => hsecond.outside x (.inl hx)
  constructor
  case output =>
    calc t'.memRead o.dst (16 * (n + m))
      _ = t'.memRead o.dst (16 * n) ++ t'.memRead (o.dst + 16 * n) (16 * m) := by rw [Nat.mul_add, memRead_append]
      _ = s.cryptOutput dir rk (o.part 0 n) ++ t.cryptOutput dir rk (o.part n m) := by
        rw [hkept]
        exact congrArg₂ (· ++ ·) hfirst.output hsecond.output
      _ = s.cryptOutput dir rk (o.part 0 (n + m)) := by
        rw [hfirst.cryptOutput_rest hgood, cryptOutput_part_add, Nat.zero_add]
  case outside =>
    intro a ha
    have hout := hsecond.outside a
    have hout' := hfirst.outside a
    simp only [BufferOperands.part] at ha hout hout'
    rw [hout (by omega), hout' (by omega)]

/-- What a batch leaves in `BUF` is determined. -/
theorem State.BufCrypted.bufByte_eq (h : s.BufCrypted o dir rk t) (h' : s.BufCrypted o dir rk u) (a : Nat) :
    t.bufByte a = u.bufByte a := by
  by_cases hout : a < o.dst ∨ o.dst + o.dlen ≤ a
  · rw [h.outside a hout, h'.outside a hout]
  · exact (memRead_eq_iff ..).1 (h.output.trans h'.output.symm) a (by omega) (by omega)

end BatchParts

/-! ## What a multi-block command leaves (R191 to R193) -/

section BatchCommands

variable {s : State} {r q : PortRegs} {rk : RoundKeys} {c : Nat}

/-- Every block of the source stands in the destination, by the reference rounds. -/
theorem State.Crypted.memRead_block {dir : Direction} {uses : Bool} {t : State} (h : s.Crypted r dir rk uses t)
    (hlen : r.operands.GoodLengths .batch) {b : Nat} (hb : b < r.operands.blockCount) :
    t.memRead (r.operands.dst + 16 * b) 16 = cryptBlock tData rk dir (s.memRead (r.operands.src + 16 * b) 16) := by
  have hblocks := congrArg (splitBlocks r.operands.blockCount) h.output
  rw [dlen_eq_of_goodLengths hlen, splitBlocks_cryptOutput, splitBlocks_memRead, splitBlocks_memRead, List.map_map,
    List.map_inj_left] at hblocks
  exact hblocks b (List.mem_range.2 hb)

/-- A multi-block command writes every source block by the reference rounds. -/
theorem exec_batch_crypts (hs : s.Inv) (hr : s.issuingPort = some r) (hctx : s.context c = some rk)
    (hslen : r.operands.slen % 16 = 0) (hdlen : r.operands.dlen = r.operands.slen) (hgood : r.operands.Good s.cfg)
    (dir : Direction) (eng : Engine) : ∃ t, exec (cryptInstr .batch dir eng true true c) s = .next t ∧
      (∀ b, b < r.operands.slen / 16 → t.memRead (r.operands.dst + 16 * b) 16 =
        cryptBlock tData rk dir (s.memRead (r.operands.src + 16 * b) 16)) ∧
      (∀ a, a < r.operands.dst ∨ r.operands.dst + r.operands.slen ≤ a → t.bufByte a = s.bufByte a) ∧
      t.ports = s.ports.set s.issuer { r with done := true, err := .ok } ∧
      t.slots = s.slots ∧ s.SameHostSide t ∧
      s.TablesAfter (usesTables s.cfg eng && decide (r.operands.slen ≠ 0)) t := by
  have hlen : r.operands.GoodLengths .batch := ⟨hslen, hdlen⟩
  have hempty : r.operands.blockCount ≠ 0 ↔ r.operands.slen ≠ 0 := by rw [BufferOperands.blockCount]; omega
  obtain ⟨t, ht, hdone⟩ := exec_crypts hs hr ((cryptCheck_ok_iff ..).2 ⟨rfl, rfl, hctx, hlen, hgood⟩) dir eng
  exact ⟨t, ht, fun b hb => hdone.memRead_block hlen hb, hdlen ▸ hdone.outside, hdone.ports, hdone.slots, hdone.hostSide,
    decide_eq_decide.2 hempty ▸ hdone.tables⟩

/-- Which checks of an empty batch are left: the lengths, the ranges and the overlap are no matter (R62, R63, R191). -/
theorem cryptCheck_empty_ok_iff {o : BufferOperands} (hslen : o.slen = 0) (hdlen : o.dlen = 0) (dp sp : Bool) :
    cryptCheck .batch dp sp c o s = .ok rk ↔ sp = true ∧ dp = true ∧ s.context c = some rk := by
  simp [cryptCheck_ok_iff, BufferOperands.GoodLengths, BufferOperands.Good, hslen, hdlen]

theorem issuingPort_setPort (hr : s.issuingPort = some r) (q : PortRegs) :
    (s.setPort s.issuer q).issuingPort = some q :=
  issuingPort_of_ports hr rfl rfl

/-- A part of a batch, issued by the port whose operand registers have been set for it. -/
theorem exec_part_crypts (hs : s.Inv) (hr : s.issuingPort = some r) (hctx : s.context c = some rk) {o : BufferOperands}
    {k n : Nat} (hq : q.operands = o.part k n) (hgood : (o.part k n).Good s.cfg) (dir : Direction) (eng : Engine) :
    ∃ t, exec (cryptInstr .batch dir eng true true c) (s.setPort s.issuer q) = .next t ∧ t.Inv ∧
      (∃ q', t.issuingPort = some q') ∧ t.cfg = s.cfg ∧ t.context c = some rk ∧ s.BufCrypted (o.part k n) dir rk t := by
  have hs' : (s.setPort s.issuer q).Inv := inv_setPort hs s.issuer q
  have hr' : (s.setPort s.issuer q).issuingPort = some q := issuingPort_setPort hr q
  have hcheck : cryptCheck .batch true true c q.operands (s.setPort s.issuer q) = .ok rk := by
    rw [hq]
    exact (cryptCheck_ok_iff ..).2 ⟨rfl, rfl, hctx, o.goodLengths_part k n, hgood⟩
  obtain ⟨t, ht, hdone⟩ := exec_crypts hs' hr' hcheck dir eng
  obtain ⟨hcfg, -⟩ := hdone.hostSide
  have hbuf : (s.setPort s.issuer q).BufCrypted (o.part k n) dir rk t := hq ▸ hdone.bufCrypted
  exact ⟨t, ht, exec_keeps_inv hs' ht, ⟨_, hdone.issuingPort hr'⟩, hcfg, (hdone.context c).trans hctx,
    hbuf.output, hbuf.outside⟩

end BatchCommands

/-! ## The obligations of `44_batch_engine.md` -/

/-- Settles O23: each chunk is its blocks one by one, and the chunks cover the blocks. -/
theorem batchIsBlockwise : Obligations.BatchIsBlockwise := fun td rk dir _ blocks hlanes =>
  cryptBatch_eq_map td rk dir hlanes blocks

/-- Settles O31: the three commands are the multi-block encryption by their engine. -/
theorem encnEncrypts : Obligations.EncnEncrypts := by
  rintro s r rk c hs hr hctx hslen hdlen hgood i uses (⟨rfl, rfl⟩ | ⟨rfl, rfl⟩ | ⟨rfl, rfl⟩)
  · exact exec_batch_crypts hs hr hctx hslen hdlen hgood .enc .ref
  · exact exec_batch_crypts hs hr hctx hslen hdlen hgood .enc .tab
  · exact exec_batch_crypts hs hr hctx hslen hdlen hgood .enc .bat

/-- Settles O32: the three commands are the multi-block decryption by their engine. -/
theorem decnDecrypts : Obligations.DecnDecrypts := by
  rintro s r rk c hs hr hctx hslen hdlen hgood i uses (⟨rfl, rfl⟩ | ⟨rfl, rfl⟩ | ⟨rfl, rfl⟩)
  · exact exec_batch_crypts hs hr hctx hslen hdlen hgood .dec .ref
  · exact exec_batch_crypts hs hr hctx hslen hdlen hgood .dec .tab
  · exact exec_batch_crypts hs hr hctx hslen hdlen hgood .dec .bat

/-- Settles O33: the presence of the buffers and the slot are the only checks that can fail, and no block is left to work on. -/
theorem emptyBatchDoesNothing : Obligations.EmptyBatchDoesNothing := by
  intro s r dir eng dp sp c hr hslen hdlen
  have hn : r.operands.blockCount = 0 := by rw [BufferOperands.blockCount, hslen]
  rw [exec_cryptInstr]
  split
  case isTrue h =>
    obtain ⟨hdp, hsp, hvalid⟩ := h
    obtain ⟨rk, hctx⟩ := Option.isSome_iff_exists.1 hvalid
    exact execCrypt_of_empty hr ((cryptCheck_empty_ok_iff hslen hdlen dp sp).2 ⟨hsp, hdp, hctx⟩) hn
  case isFalse h =>
    cases hc : cryptCheck .batch dp sp c r.operands s with
    | error e => exact execCrypt_of_error hr hc
    | ok rk =>
      obtain ⟨hsp, hdp, hctx⟩ := (cryptCheck_empty_ok_iff hslen hdlen dp sp).1 hc
      exact absurd ⟨hdp, hsp, Option.isSome_iff_exists.2 ⟨rk, hctx⟩⟩ h

/-- Settles O41: the first part does not touch the source of the second, and the two outputs side by side are the whole's. -/
theorem batchMayBeSplit : Obligations.BatchMayBeSplit := by
  intro s r r1 r2 dir eng c n m hs hr hvalid hslen hdlen hgood hr1 hr2
  obtain ⟨rk, hctx⟩ := Option.isSome_iff_exists.1 hvalid
  have hself : r.operands.part 0 (n + m) = r.operands := BufferOperands.part_zero_eq_self hslen hdlen
  have hgood' : (r.operands.part 0 (n + m)).Good s.cfg := hself.symm ▸ hgood
  obtain ⟨u, hu, hwhole⟩ := exec_crypts hs hr
    ((cryptCheck_ok_iff ..).2 ⟨rfl, rfl, hctx, hself ▸ r.operands.goodLengths_part .., hgood⟩) dir eng
  obtain ⟨t1, ht1, hs1, ⟨q, hq⟩, hcfg, hctx1, hfirst⟩ :=
    exec_part_crypts hs hr hctx (k := 0) hr1 (hgood'.part (by omega)) dir eng
  obtain ⟨t2, ht2, -, -, -, -, hsecond⟩ :=
    exec_part_crypts hs1 hq hctx1 hr2 (hcfg.symm ▸ hgood'.part (by omega)) dir eng
  have hparts : s.BufCrypted r.operands dir rk t2 := hself ▸ hfirst.append hsecond hgood'
  exact ⟨u, t1, t2, hu, ht1, ht2, hparts.bufByte_eq hwhole.bufCrypted⟩

end Sys2Proof.Machine

/-! # Proofs: the errors of commands

The laws the obligations of `60_exceptions.md` rest on: a command either reports an error and does nothing else, or its result is
`OK`; and `InvalidKeyLength` comes from the length check of `KEYEXP` alone. The obligations follow. -/

namespace Sys2Proof.Machine

/-! ## What a command that fails leaves (R206, R212) -/

/-- No other error has the code of `InvalidKeyLength` (R205). -/
theorem code_eq_invalidKeyLength_iff (e : CommandError) : e.code = .invalidKeyLength ↔ e = .invalidKeyLength := by
  cases e <;> decide

section Errors

variable {s t : State} {r r' : PortRegs}

/-- The length check of `KEYEXP` comes after the presence check and before the others (R206, R210). -/
theorem keyexpError_eq_invalidKeyLength_iff (sp : Bool) (c : Nat) (o : BufferOperands) (cfg : Config) :
    keyexpError sp c o cfg = some .invalidKeyLength ↔ sp = true ∧ o.slen ≠ 16 := by
  cases sp with
  | false => simp [keyexpError_of_absent]
  | true =>
    by_cases hlen : o.slen = 16
    · obtain hc | hc := le_or_gt cfg.nctx c
      · simp [keyexpError_of_slot hlen hc, hlen]
      · obtain hsrc | hsrc := le_or_gt (o.src + 16) cfg.bufBytes
        · simp [(keyexpError_eq_none_iff ..).2 ⟨rfl, hlen, hc, hsrc⟩, hlen]
        · simp [keyexpError_of_range hlen hsrc, hlen]
    · simp [keyexpError_of_length hlen, hlen]

/-- Everything a command can do, by its result: it reports an error and does nothing else, or its result is `OK`. -/
theorem exec_fails_or_completes {i : Instr} (hr : s.issuingPort = some r) (h : exec i s = .next t) :
    (∃ e : CommandError, t = s.withStatus r e.code ∧
      (e = .invalidKeyLength → ∃ c, i = .keyexp true c ∧ r.operands.slen ≠ 16)) ∨
    t.issuingPort = some { r with done := true, err := .ok } := by
  obtain ⟨sp, c, rfl⟩ | ⟨arity, dir, eng, dp, sp, c, rfl⟩ := instr_cases i
  · obtain ⟨q, hq, hcases⟩ := execKeyexp_cases h
    obtain rfl : r = q := Option.some.inj (hr.symm.trans hq)
    obtain ⟨e, he, rfl⟩ | ⟨-, rfl⟩ := hcases
    · refine .inl ⟨e, rfl, ?_⟩
      rintro rfl
      obtain ⟨rfl, hlen⟩ := (keyexpError_eq_invalidKeyLength_iff ..).1 he
      exact ⟨c, rfl, hlen⟩
    · have hslot (rk : RoundKeys) : (s.setSlot c rk).issuingPort = some r := hr
      exact .inr (issuingPort_withStatus (hslot _) .ok)
  · rw [exec_cryptInstr] at h
    obtain ⟨q, hq, hcases⟩ := execCrypt_cases h
    obtain rfl : r = q := Option.some.inj (hr.symm.trans hq)
    obtain ⟨-, rfl⟩ | ⟨rk, -, ⟨-, rfl⟩ | ⟨-, rfl⟩⟩ := hcases
    · exact .inl ⟨.invalidArgument, rfl, nofun⟩
    · exact .inr (issuingPort_withStatus hr .ok)
    · have hbuf : (cryptBuffers eng dir rk r.operands s).issuingPort = some r := by rw [cryptBuffers_frame]; exact hr
      exact .inr (issuingPort_withStatus hbuf .ok)

/-- The code of a report is the one found in the issuing port afterwards. -/
theorem err_of_withStatus {k : ResultCode} (hr : s.issuingPort = some r)
    (hr' : (s.withStatus r k).issuingPort = some r') : r'.err = k := by
  obtain rfl := Option.some.inj ((issuingPort_withStatus hr k).symm.trans hr')
  rfl

/-- A command that ends with an error has changed `STATUS` of its port and nothing else (R212). -/
theorem exec_eq_withStatus_of_err_ne_ok {i : Instr} (hr : s.issuingPort = some r) (h : exec i s = .next t)
    (hr' : t.issuingPort = some r') (hne : r'.err ≠ .ok) : t = s.withStatus r r'.err := by
  obtain ⟨e, rfl, -⟩ | hok := exec_fails_or_completes hr h
  · rw [err_of_withStatus hr hr']
  · obtain rfl := Option.some.inj (hok.symm.trans hr')
    exact absurd rfl hne

/-- The same for any word, legal or not (R208, R212). -/
theorem runCommand_eq_withStatus_of_err_ne_ok {w : Word} (hr : s.issuingPort = some r) (h : runCommand w s = .next t)
    (hr' : t.issuingPort = some r') (hne : r'.err ≠ .ok) : t = s.withStatus r r'.err := by
  obtain rfl | ⟨i, -, hi⟩ := runCommand_cases h
  · rw [report_eq_withStatus hr] at hr' ⊢
    rw [err_of_withStatus hr hr']
  · exact exec_eq_withStatus_of_err_ne_ok hr hi hr' hne

/-- `InvalidKeyLength` is the result of a `KEYEXP` whose key buffer is present and not 16 bytes long, and of nothing else (R206). -/
theorem exec_err_eq_invalidKeyLength_iff {i : Instr} (hr : s.issuingPort = some r) (h : exec i s = .next t)
    (hr' : t.issuingPort = some r') :
    r'.err = .invalidKeyLength ↔ ∃ c, i = .keyexp true c ∧ r.operands.slen ≠ 16 := by
  constructor
  · intro herr
    obtain ⟨e, rfl, hkey⟩ | hok := exec_fails_or_completes hr h
    · exact hkey ((code_eq_invalidKeyLength_iff e).1 ((err_of_withStatus hr hr').symm.trans herr))
    · obtain rfl := Option.some.inj (hok.symm.trans hr')
      cases herr
  · rintro ⟨c, rfl, hlen⟩
    obtain rfl : s.withStatus r .invalidKeyLength = t :=
      Host.Outcome.next.inj ((execKeyexp_of_error hr (keyexpError_of_length hlen)).symm.trans h)
    exact err_of_withStatus hr hr'

end Errors

/-! ## The obligations of `60_exceptions.md` -/

/-- Settles O27: of the checks of all commands only the length check of `KEYEXP` gives this error, and a report changes `STATUS`
only. -/
theorem invalidKeyLengthExactly : Obligations.InvalidKeyLengthExactly := by
  intro i s t r r' hr h hr'
  refine ⟨exec_err_eq_invalidKeyLength_iff hr h hr', fun herr => ?_⟩
  rw [← herr]
  exact exec_eq_withStatus_of_err_ne_ok hr h hr' (by simp [herr])

/-- Settles O36: the word runs in the state that has it in `CMD`, and what reports an error there changes `STATUS` only. -/
theorem failedCommandChangesOnlyStatus : Obligations.FailedCommandChangesOnlyStatus := by
  intro s t p r r' w rest hs hp h hp' hne
  rw [step_cmdWrite hp hs] at h
  obtain ⟨-, -, hissuer, -⟩ := runCommand_sameHostSide h
  have hr' : t.issuingPort = some r' := by
    rw [State.issuingPort, hissuer]
    exact hp'
  have hr := issuingPort_acceptCommand (s := s.withScript rest) (w := w) hp
  rw [runCommand_eq_withStatus_of_err_ne_ok hr h hr' hne, State.withStatus, acceptCommand_ports, acceptCommand_issuer,
    List.set_set]
  rfl

end Sys2Proof.Machine

/-! # Proofs: `Reset`

What a core that has just been reset holds, in any configuration and at any epoch, and the step that leads there. The obligation
of `70_reset_and_hazards.md` follows. -/

namespace Sys2Proof.Machine

/-! ## What a reset core holds (R40) -/

section ResetCore

variable (s : State) (c a : Nat)

/-- `STATUS` of a port whose registers are all 0. -/
theorem statusWord_zero : PortRegs.zero.statusWord = 0 := rfl

theorem ctxValid_resetCore : (resetCore s).ctxValid c = false :=
  (congrArg Option.isSome (context_congr rfl rfl c)).trans (ctxValid_initial s.cfg (s.epoch + 1) c)

theorem trdy_resetCore : (resetCore s).trdy = false := rfl

/-- No byte has been written since the reset, so each has the free value of the epoch that begins (R40; log 5). -/
theorem bufByte_resetCore : (resetCore s).bufByte a = Config.freeByte (s.epoch + 1) a := rfl

end ResetCore

/-! ## The step of `Reset` (R235) -/

theorem step_reset {s : State} {rest : List HostAction} (hs : s.script = .reset :: rest) :
    step s = .next (resetCore (s.withScript rest)) := step_eq_perform hs

/-! ## The obligation of `70_reset_and_hazards.md` -/

/-- Settles O52: the step is `resetCore` of the state without the action, which keeps only the configuration, the pending actions
and the replies. -/
theorem resetAction : Obligations.ResetAction := by
  intro s rest hs
  refine ⟨_, step_reset hs, fun p hp => ?_, List.length_replicate, ctxValid_resetCore _, trdy_resetCore _, resetCore_tbuilds _,
    resetCore_cfg _, bufByte_resetCore _, resetCore_script _, resetCore_replies _⟩
  exact ⟨PortRegs.zero, List.getElem?_replicate_of_lt hp, rfl, rfl, rfl, rfl, rfl, statusWord_zero⟩

end Sys2Proof.Machine
